-- ==== Sys2Proof/Word.lean ====
section
/-! DEFINITION. The word types of the CHIP-8 core: bytes, 16-bit words, register numbers, 12-bit addresses (spec 00_scope.md R6, R7). -/

namespace Sys2Proof

/-- An 8-bit unsigned value: a V register, DT, ST, a memory byte (R6 XLEN). -/
abbrev Byte := BitVec 8

/-- A 16-bit unsigned value: I, PC, a stack entry, an opcode (R6 ALEN, R60). -/
abbrev Word := BitVec 16

/-- A 4-bit field of an opcode (R61). -/
abbrev Nibble := BitVec 4

/-- A register number, 0 to 15 (R64): the fields x and y. -/
abbrev Reg := BitVec 4

/-- A key code, 0x0 to 0xF (R21). -/
abbrev Key := BitVec 4

/-- The 12-bit address field nnn (R61). -/
abbrev Addr := BitVec 12

/-- VF, the flag register (R11). -/
abbrev vf : Reg := 0xF#4

end Sys2Proof
end

