-- ==== Sys2Proof/Syntax.lean ====
section
/-! DEFINITION. The abstract syntax: one constructor per row of spec/opcode_table.json (30_encoding.md R66, and the four holes of R67), with the decoded fields of R61. -/

namespace Sys2Proof

/-- The instructions, in the order of spec/opcode_table.json. -/
inductive Instr where
  /-- 00E0 `CLS` (R135). -/
  | cls
  /-- 00EE `RET` (R80). -/
  | ret
  /-- 1nnn `JP nnn` (R81). -/
  | jp (nnn : Addr)
  /-- 2nnn `CALL nnn` (R82). -/
  | call (nnn : Addr)
  /-- 3xkk `SE Vx,kk` (R84). -/
  | seImm (x : Reg) (kk : Byte)
  /-- 4xkk `SNE Vx,kk` (R85). -/
  | sneImm (x : Reg) (kk : Byte)
  /-- 5xy_ `SE Vx,Vy` (R86); n is the low nibble no tier decodes (R68), kept so that no bit of the word is lost. -/
  | seReg (x y : Reg) (n : Nibble)
  /-- 6xkk `LD Vx,kk` (R100). -/
  | ldImm (x : Reg) (kk : Byte)
  /-- 7xkk `ADD Vx,kk` (R101). -/
  | addImm (x : Reg) (kk : Byte)
  /-- 8xy0 `LD Vx,Vy` (R110). -/
  | ldReg (x y : Reg)
  /-- 8xy1 `OR Vx,Vy` (R111). -/
  | orReg (x y : Reg)
  /-- 8xy2 `AND Vx,Vy` (R112). -/
  | andReg (x y : Reg)
  /-- 8xy3 `XOR Vx,Vy` (R113). -/
  | xorReg (x y : Reg)
  /-- 8xy4 `ADD Vx,Vy` (R114). -/
  | addReg (x y : Reg)
  /-- 8xy5 `SUB Vx,Vy` (R115). -/
  | subReg (x y : Reg)
  /-- 8xy6 `SHR Vx` (R116); y is decoded and unused. -/
  | shr (x y : Reg)
  /-- 8xy7 `SUBN Vx,Vy` (R117). -/
  | subnReg (x y : Reg)
  /-- 8xyE `SHL Vx` (R118); y is decoded and unused. -/
  | shl (x y : Reg)
  /-- 9xy_ `SNE Vx,Vy` (R87); n as in `seReg`. -/
  | sneReg (x y : Reg) (n : Nibble)
  /-- Annn `LD I,nnn` (R102). -/
  | ldI (nnn : Addr)
  /-- Bnnn `JP V0,nnn` (R88). -/
  | jpV0 (nnn : Addr)
  /-- Cxkk `RND Vx,kk` (R130). -/
  | rnd (x : Reg) (kk : Byte)
  /-- Dxyn `DRW Vx,Vy,n` (R137). -/
  | drw (x y : Reg) (n : Nibble)
  /-- Ex9E `SKP Vx` (R150). -/
  | skp (x : Reg)
  /-- ExA1 `SKNP Vx` (R151). -/
  | sknp (x : Reg)
  /-- Fx07 `LD Vx,DT` (R165). -/
  | ldVxDt (x : Reg)
  /-- Fx0A `LD Vx,K` (R152). -/
  | ldVxK (x : Reg)
  /-- Fx15 `LD DT,Vx` (R166). -/
  | ldDtVx (x : Reg)
  /-- Fx18 `LD ST,Vx` (R167). -/
  | ldStVx (x : Reg)
  /-- Fx1E `ADD I,Vx` (R168). -/
  | addIVx (x : Reg)
  /-- Fx29 `LD F,Vx` (R169). -/
  | ldFVx (x : Reg)
  /-- Fx33 `LD B,Vx` (R170). -/
  | ldBVx (x : Reg)
  /-- Fx55 `LD [I],Vx` (R171). -/
  | ldMemVx (x : Reg)
  /-- Fx65 `LD Vx,[I]` (R172). -/
  | ldVxMem (x : Reg)
  /-- 0nnn other than 00E0 and 00EE: a no-op (R67, R89). -/
  | nop0 (nnn : Addr)
  /-- 8xyN with N in 8, 9, A, B, C, D, F: a no-op (R67, R119). -/
  | nop8 (x y : Reg) (n : Nibble)
  /-- Exkk with kk not 9E or A1: a no-op (R67, R154). -/
  | nopE (x : Reg) (kk : Byte)
  /-- Fxkk with kk none of the nine sub-operations: a no-op (R67, R173). -/
  | nopF (x : Reg) (kk : Byte)
  deriving DecidableEq, Repr

/-- The row's mnemonic, as spec/opcode_table.json spells it. -/
def Instr.mnemonic : Instr → String
  | .cls => "CLS"
  | .ret => "RET"
  | .jp _ => "JP_nnn"
  | .call _ => "CALL_nnn"
  | .seImm _ _ => "SE_Vx_kk"
  | .sneImm _ _ => "SNE_Vx_kk"
  | .seReg _ _ _ => "SE_Vx_Vy"
  | .ldImm _ _ => "LD_Vx_kk"
  | .addImm _ _ => "ADD_Vx_kk"
  | .ldReg _ _ => "LD_Vx_Vy"
  | .orReg _ _ => "OR_Vx_Vy"
  | .andReg _ _ => "AND_Vx_Vy"
  | .xorReg _ _ => "XOR_Vx_Vy"
  | .addReg _ _ => "ADD_Vx_Vy"
  | .subReg _ _ => "SUB_Vx_Vy"
  | .shr _ _ => "SHR_Vx"
  | .subnReg _ _ => "SUBN_Vx_Vy"
  | .shl _ _ => "SHL_Vx"
  | .sneReg _ _ _ => "SNE_Vx_Vy"
  | .ldI _ => "LD_I_nnn"
  | .jpV0 _ => "JP_V0_nnn"
  | .rnd _ _ => "RND_Vx_kk"
  | .drw _ _ _ => "DRW_Vx_Vy_n"
  | .skp _ => "SKP_Vx"
  | .sknp _ => "SKNP_Vx"
  | .ldVxDt _ => "LD_Vx_DT"
  | .ldVxK _ => "LD_Vx_K"
  | .ldDtVx _ => "LD_DT_Vx"
  | .ldStVx _ => "LD_ST_Vx"
  | .addIVx _ => "ADD_I_Vx"
  | .ldFVx _ => "LD_F_Vx"
  | .ldBVx _ => "LD_B_Vx"
  | .ldMemVx _ => "LD__I__Vx"
  | .ldVxMem _ => "LD_Vx__I"
  | .nop0 _ => "NOP.0nnn"
  | .nop8 _ _ _ => "NOP.8xyN"
  | .nopE _ _ => "NOP.Exkk"
  | .nopF _ _ => "NOP.Fxkk"

end Sys2Proof
end

