-- ==== Sys2Proof/WellFormed.lean ====
section
/-! DEFINITION. Which terms of the syntax stand for a word: the field types bound every operand (R64), so the only checks are that a hole's word is not an instruction's (30_encoding.md R67, the table of holes). -/

namespace Sys2Proof

/-- The low nibbles of the 8xy_ family that tier 3 recognises (R63, R119). -/
def aluNibbles : List Nibble := [0x0#4, 0x1#4, 0x2#4, 0x3#4, 0x4#4, 0x5#4, 0x6#4, 0x7#4, 0xE#4]

/-- The low bytes of the E family that tier 3 recognises (R63, R154). -/
def keyBytes : List Byte := [0x9E#8, 0xA1#8]

/-- The low bytes of the F family that tier 3 recognises (R63, R173). -/
def fBytes : List Byte :=
  [0x07#8, 0x0A#8, 0x15#8, 0x18#8, 0x1E#8, 0x29#8, 0x33#8, 0x55#8, 0x65#8]

/-- A term is well formed when it stands for a word: an instruction always, a hole when its fields are in the hole (R67). -/
def Instr.wellFormed : Instr → Bool
  | .cls | .ret | .jp _ | .call _ | .seImm _ _ | .sneImm _ _ | .seReg _ _ _ | .ldImm _ _
  | .addImm _ _ | .ldReg _ _ | .orReg _ _ | .andReg _ _ | .xorReg _ _ | .addReg _ _
  | .subReg _ _ | .shr _ _ | .subnReg _ _ | .shl _ _ | .sneReg _ _ _ | .ldI _ | .jpV0 _
  | .rnd _ _ | .drw _ _ _ | .skp _ | .sknp _ | .ldVxDt _ | .ldVxK _ | .ldDtVx _ | .ldStVx _
  | .addIVx _ | .ldFVx _ | .ldBVx _ | .ldMemVx _ | .ldVxMem _ => true
  | .nop0 nnn => nnn != 0x0E0#12 && nnn != 0x0EE#12
  | .nop8 _ _ n => !aluNibbles.contains n
  | .nopE _ kk => !keyBytes.contains kk
  | .nopF _ kk => !fBytes.contains kk

end Sys2Proof
end

