-- ==== Sys2Proof/Decode.lean ====
section
/-! DEFINITION. The decoder, by the three dispatch tiers of 30_encoding.md R63, and the encoder, from the match column of R66.
Every one of the 65536 words decodes (R70); what the byte decoder refuses, by name, is a list too short to hold a word. -/

namespace Sys2Proof

/-! ## The fields of a word (R61) -/

/-- The family nibble, op[15:12]. -/
def famOf (op : Word) : Nibble := op.extractLsb' 12 4
/-- x = op[11:8]. -/
def xOf (op : Word) : Reg := op.extractLsb' 8 4
/-- y = op[7:4]. -/
def yOf (op : Word) : Reg := op.extractLsb' 4 4
/-- n = op[3:0]. -/
def nOf (op : Word) : Nibble := op.extractLsb' 0 4
/-- kk = op[7:0]. -/
def kkOf (op : Word) : Byte := op.extractLsb' 0 8
/-- nnn = op[11:0]. -/
def nnnOf (op : Word) : Addr := op.extractLsb' 0 12

/-! ## The tiers (R63) -/

/-- Tier 3 of the 8xy_ family, on the low nibble. -/
def decodeAlu (op : Word) : Instr :=
  match (nOf op).toNat with
  | 0x0 => .ldReg (xOf op) (yOf op)
  | 0x1 => .orReg (xOf op) (yOf op)
  | 0x2 => .andReg (xOf op) (yOf op)
  | 0x3 => .xorReg (xOf op) (yOf op)
  | 0x4 => .addReg (xOf op) (yOf op)
  | 0x5 => .subReg (xOf op) (yOf op)
  | 0x6 => .shr (xOf op) (yOf op)
  | 0x7 => .subnReg (xOf op) (yOf op)
  | 0xE => .shl (xOf op) (yOf op)
  | _ => .nop8 (xOf op) (yOf op) (nOf op)

/-- Tier 3 of the E family, on the low byte. -/
def decodeKey (op : Word) : Instr :=
  if kkOf op = 0x9E#8 then .skp (xOf op)
  else if kkOf op = 0xA1#8 then .sknp (xOf op)
  else .nopE (xOf op) (kkOf op)

/-- Tier 3 of the F family, on the low byte. -/
def decodeF (op : Word) : Instr :=
  if kkOf op = 0x07#8 then .ldVxDt (xOf op)
  else if kkOf op = 0x0A#8 then .ldVxK (xOf op)
  else if kkOf op = 0x15#8 then .ldDtVx (xOf op)
  else if kkOf op = 0x18#8 then .ldStVx (xOf op)
  else if kkOf op = 0x1E#8 then .addIVx (xOf op)
  else if kkOf op = 0x29#8 then .ldFVx (xOf op)
  else if kkOf op = 0x33#8 then .ldBVx (xOf op)
  else if kkOf op = 0x55#8 then .ldMemVx (xOf op)
  else if kkOf op = 0x65#8 then .ldVxMem (xOf op)
  else .nopF (xOf op) (kkOf op)

/-- Tier 2, on the family nibble. -/
def decodeFamily (op : Word) : Instr :=
  match (famOf op).toNat with
  | 0x0 => .nop0 (nnnOf op)
  | 0x1 => .jp (nnnOf op)
  | 0x2 => .call (nnnOf op)
  | 0x3 => .seImm (xOf op) (kkOf op)
  | 0x4 => .sneImm (xOf op) (kkOf op)
  | 0x5 => .seReg (xOf op) (yOf op) (nOf op)
  | 0x6 => .ldImm (xOf op) (kkOf op)
  | 0x7 => .addImm (xOf op) (kkOf op)
  | 0x8 => decodeAlu op
  | 0x9 => .sneReg (xOf op) (yOf op) (nOf op)
  | 0xA => .ldI (nnnOf op)
  | 0xB => .jpV0 (nnnOf op)
  | 0xC => .rnd (xOf op) (kkOf op)
  | 0xD => .drw (xOf op) (yOf op) (nOf op)
  | 0xE => decodeKey op
  | _ => decodeF op

/-- `Execute`'s selection of one instruction (R63): tier 1 compares the whole word (R69). -/
def decodeWord (op : Word) : Instr :=
  if op = 0x00E0#16 then .cls
  else if op = 0x00EE#16 then .ret
  else decodeFamily op

/-! ## Bytes -/

/-- Why a list of bytes decodes to nothing. -/
inductive DecodeError where
  /-- Fewer than the two bytes every instruction has (R60). -/
  | truncated
  deriving DecidableEq, Repr

/-- The opcode two bytes make: the byte at the lower address is the high half (R41, R54). -/
def wordOfBytes (hi lo : Byte) : Word := hi ++ lo

/-- The high byte of an opcode, stored at the lower address (R41). -/
def highByte (op : Word) : Byte := op.extractLsb' 8 8
/-- The low byte of an opcode. -/
def lowByte (op : Word) : Byte := op.extractLsb' 0 8

/-- The two bytes of an opcode as memory stores them, lower address first (R41, R54). -/
def bytesOfWord (op : Word) : List Byte := [highByte op, lowByte op]

/-- Read one instruction from a list of bytes and leave the rest. -/
def decode : List Byte → Except DecodeError (Instr × List Byte)
  | hi :: lo :: rest => .ok (decodeWord (wordOfBytes hi lo), rest)
  | _ => .error .truncated

/-! ## The encoder (R66) -/

/-- The word of an instruction: the match column of R66 with the fields put in their places (R61). -/
def encode : Instr → Word
  | .cls => 0x00E0#16
  | .ret => 0x00EE#16
  | .jp nnn => 0x1#4 ++ nnn
  | .call nnn => 0x2#4 ++ nnn
  | .seImm x kk => 0x3#4 ++ x ++ kk
  | .sneImm x kk => 0x4#4 ++ x ++ kk
  | .seReg x y n => 0x5#4 ++ x ++ y ++ n
  | .ldImm x kk => 0x6#4 ++ x ++ kk
  | .addImm x kk => 0x7#4 ++ x ++ kk
  | .ldReg x y => 0x8#4 ++ x ++ y ++ 0x0#4
  | .orReg x y => 0x8#4 ++ x ++ y ++ 0x1#4
  | .andReg x y => 0x8#4 ++ x ++ y ++ 0x2#4
  | .xorReg x y => 0x8#4 ++ x ++ y ++ 0x3#4
  | .addReg x y => 0x8#4 ++ x ++ y ++ 0x4#4
  | .subReg x y => 0x8#4 ++ x ++ y ++ 0x5#4
  | .shr x y => 0x8#4 ++ x ++ y ++ 0x6#4
  | .subnReg x y => 0x8#4 ++ x ++ y ++ 0x7#4
  | .shl x y => 0x8#4 ++ x ++ y ++ 0xE#4
  | .sneReg x y n => 0x9#4 ++ x ++ y ++ n
  | .ldI nnn => 0xA#4 ++ nnn
  | .jpV0 nnn => 0xB#4 ++ nnn
  | .rnd x kk => 0xC#4 ++ x ++ kk
  | .drw x y n => 0xD#4 ++ x ++ y ++ n
  | .skp x => 0xE#4 ++ x ++ 0x9E#8
  | .sknp x => 0xE#4 ++ x ++ 0xA1#8
  | .ldVxDt x => 0xF#4 ++ x ++ 0x07#8
  | .ldVxK x => 0xF#4 ++ x ++ 0x0A#8
  | .ldDtVx x => 0xF#4 ++ x ++ 0x15#8
  | .ldStVx x => 0xF#4 ++ x ++ 0x18#8
  | .addIVx x => 0xF#4 ++ x ++ 0x1E#8
  | .ldFVx x => 0xF#4 ++ x ++ 0x29#8
  | .ldBVx x => 0xF#4 ++ x ++ 0x33#8
  | .ldMemVx x => 0xF#4 ++ x ++ 0x55#8
  | .ldVxMem x => 0xF#4 ++ x ++ 0x65#8
  | .nop0 nnn => 0x0#4 ++ nnn
  | .nop8 x y n => 0x8#4 ++ x ++ y ++ n
  | .nopE x kk => 0xE#4 ++ x ++ kk
  | .nopF x kk => 0xF#4 ++ x ++ kk

/-- The two bytes of an instruction as memory stores them. -/
def encodeBytes (i : Instr) : List Byte := bytesOfWord (encode i)

/-! ## The opcode table (R66, R67, R71) -/

/-- One row of R66: a word is the row's when `word AND mask = value` and no earlier row took it (R71). -/
structure OpRow where
  mnemonic : String
  mask : Word
  value : Word
  deriving DecidableEq, Repr

/-- R66, rows 1 to 9. -/
def opRowsA : List OpRow :=
  [⟨"CLS", 0xFFFF#16, 0x00E0#16⟩, ⟨"RET", 0xFFFF#16, 0x00EE#16⟩, ⟨"JP_nnn", 0xF000#16, 0x1000#16⟩,
   ⟨"CALL_nnn", 0xF000#16, 0x2000#16⟩, ⟨"SE_Vx_kk", 0xF000#16, 0x3000#16⟩,
   ⟨"SNE_Vx_kk", 0xF000#16, 0x4000#16⟩, ⟨"SE_Vx_Vy", 0xF000#16, 0x5000#16⟩,
   ⟨"LD_Vx_kk", 0xF000#16, 0x6000#16⟩, ⟨"ADD_Vx_kk", 0xF000#16, 0x7000#16⟩]

/-- R66, rows 10 to 18: the 8xy_ family. -/
def opRowsB : List OpRow :=
  [⟨"LD_Vx_Vy", 0xF00F#16, 0x8000#16⟩, ⟨"OR_Vx_Vy", 0xF00F#16, 0x8001#16⟩,
   ⟨"AND_Vx_Vy", 0xF00F#16, 0x8002#16⟩, ⟨"XOR_Vx_Vy", 0xF00F#16, 0x8003#16⟩,
   ⟨"ADD_Vx_Vy", 0xF00F#16, 0x8004#16⟩, ⟨"SUB_Vx_Vy", 0xF00F#16, 0x8005#16⟩,
   ⟨"SHR_Vx", 0xF00F#16, 0x8006#16⟩, ⟨"SUBN_Vx_Vy", 0xF00F#16, 0x8007#16⟩,
   ⟨"SHL_Vx", 0xF00F#16, 0x800E#16⟩]

/-- R66, rows 19 to 25. -/
def opRowsC : List OpRow :=
  [⟨"SNE_Vx_Vy", 0xF000#16, 0x9000#16⟩, ⟨"LD_I_nnn", 0xF000#16, 0xA000#16⟩,
   ⟨"JP_V0_nnn", 0xF000#16, 0xB000#16⟩, ⟨"RND_Vx_kk", 0xF000#16, 0xC000#16⟩,
   ⟨"DRW_Vx_Vy_n", 0xF000#16, 0xD000#16⟩, ⟨"SKP_Vx", 0xF0FF#16, 0xE09E#16⟩,
   ⟨"SKNP_Vx", 0xF0FF#16, 0xE0A1#16⟩]

/-- R66, rows 26 to 34: the F family. -/
def opRowsD : List OpRow :=
  [⟨"LD_Vx_DT", 0xF0FF#16, 0xF007#16⟩, ⟨"LD_Vx_K", 0xF0FF#16, 0xF00A#16⟩,
   ⟨"LD_DT_Vx", 0xF0FF#16, 0xF015#16⟩, ⟨"LD_ST_Vx", 0xF0FF#16, 0xF018#16⟩,
   ⟨"ADD_I_Vx", 0xF0FF#16, 0xF01E#16⟩, ⟨"LD_F_Vx", 0xF0FF#16, 0xF029#16⟩,
   ⟨"LD_B_Vx", 0xF0FF#16, 0xF033#16⟩, ⟨"LD__I__Vx", 0xF0FF#16, 0xF055#16⟩,
   ⟨"LD_Vx__I", 0xF0FF#16, 0xF065#16⟩]

/-- The holes (R67), last in priority (R71). -/
def opRowsHoles : List OpRow :=
  [⟨"NOP.0nnn", 0xF000#16, 0x0000#16⟩, ⟨"NOP.8xyN", 0xF000#16, 0x8000#16⟩,
   ⟨"NOP.Exkk", 0xF000#16, 0xE000#16⟩, ⟨"NOP.Fxkk", 0xF000#16, 0xF000#16⟩]

/-- The rows of spec/opcode_table.json, in priority order (R71). -/
def opcodeTable : List OpRow := opRowsA ++ opRowsB ++ opRowsC ++ opRowsD ++ opRowsHoles

/-- Does a word match a row (R66)? -/
def OpRow.accepts (r : OpRow) (op : Word) : Bool := op &&& r.mask == r.value

/-- The instruction the decoder reads from a table row's word: bit 0 of `w` is the word's least significant bit, the bits above `nbits` are 0, and the bytes are laid out as memory stores them (R41). -/
def decodeTableWord (nbits w : Nat) : Option Instr :=
  match decode (bytesOfWord (BitVec.ofNat 16 (w % 2 ^ nbits))) with
  | .ok (i, _) => some i
  | .error _ => none

end Sys2Proof
end

