-- ==== Sys2Proof/Config.lean ====
section
/-! DEFINITION. The implementation parameters (spec 00_scope.md R6) and the two values the spec leaves open without a default: the RND draw and the host key map.
The third open parameter, FONT (20_memory.md R47), is an argument of the machine: `State.font`, of the type `Font` declared here. -/

namespace Sys2Proof.Config

/-- MEM_SIZE (R6): addresses 0 to 4095. -/
abbrev memSize : Nat := 4096
/-- GLYPH_H (R6): bytes per glyph. -/
abbrev glyphHeight : Nat := 5
/-- FONT_BASE (R6): address of glyph 0. -/
abbrev fontBase : Nat := 0
/-- FONT_SIZE (R6): 16 glyphs of 5 bytes. -/
abbrev fontSize : Nat := 80
/-- FONT's type (R6, R47): 80 bytes. -/
abbrev Font := Vector Byte fontSize
/-- PROG_BASE (R6): the load address, and PC after Load. -/
abbrev progBase : Nat := 0x200
/-- PROG_MAX (R6): the largest program Load accepts. -/
abbrev progMax : Nat := 3584
/-- STACK_DEPTH (R6, R18). -/
abbrev stackDepth : Nat := 16
/-- SCREEN_W (R6): pixels per row. -/
abbrev screenW : Nat := 64
/-- SCREEN_H (R6): rows. -/
abbrev screenH : Nat := 32

/-- The draw of the n-th executed RND (43_random.md R130, R131): a free value under no law, so it has no body.
Log entry 2. -/
opaque draw : Nat → Byte

/-- A host key symbol (60_exceptions.md R202): the host's own type, of which the core uses nothing but `keymap`.
Log entry 3 (DESIGN CHOICE: the symbols are numbered). -/
abbrev HostSymbol := Nat

/-- KEYMAP (R6, R203): an open parameter of which nothing is assumed, so it has no body; `none` is "not-found".
Log entry 3. -/
opaque keymap : HostSymbol → Option Key

end Sys2Proof.Config
end

