-- ==== Sys2Proof/Machine/State.lean ====
section
/-! DEFINITION. The machine's state (spec 10_state.md), its reset value (R28), and the reasons a step stops. -/

namespace Sys2Proof.Machine

open Sys2Proof

/-- STATUS.STATE (R24). -/
inductive Status where
  /-- The core is between instructions; `Step` is enabled. -/
  | run
  /-- An Fx0A has executed and the core is suspended until a mapped key-down event. -/
  | waitKey
  /-- A fault has been raised; only Reset leaves this state (R192). -/
  | fault
  deriving DecidableEq, Repr

/-- FCAUSE (R25, R190): the cause codes, 0 when no fault has been raised. -/
inductive FaultCause where
  /-- 0: no fault since Reset (R28). -/
  | none
  /-- 1: a fetch with PC > 4094. -/
  | fetchBounds
  /-- 2: a data address of 4096 or more. -/
  | dataBounds
  /-- 3: CALL with SP = 16. -/
  | stackOverflow
  /-- 4: RET with SP = 0. -/
  | stackUnderflow
  /-- 5: SKP or SKNP with Vx > 15. -/
  | keyRange
  /-- 6: Load of more than 3584 bytes. -/
  | loadSize
  deriving DecidableEq, Repr

/-- The 3-bit code of a cause (R190). -/
def FaultCause.code : FaultCause → BitVec 3
  | .none => 0
  | .fetchBounds => 1
  | .dataBounds => 2
  | .stackOverflow => 3
  | .stackUnderflow => 4
  | .keyRange => 5
  | .loadSize => 6

/-- The transitions the host makes (R4): everything but Step. -/
inductive HostEvent where
  /-- `Tick` (R200). -/
  | tick
  /-- `KeySet(k, b)` (R201); `down` is b = 1. -/
  | keySet (k : Key) (down : Bool)
  /-- `KeyDown(sym)` (R202): the symbol goes through KEYMAP. -/
  | keyDown (sym : Config.HostSymbol)
  /-- `KeyDown(k)` or `KeyDown(none)`, the symbol already mapped (R202's last sentence but one). -/
  | keyMapped (k : Option Key)
  /-- `Reset` (R220). -/
  | reset
  /-- `Load(buf)` (R224). -/
  | load (buf : List Byte)
  deriving DecidableEq, Repr

/-- Whose transition comes next (R4): the core's `Step` or one of the host's. -/
inductive Turn where
  | core
  | host (e : HostEvent)
  deriving DecidableEq, Repr

/-- MEM as cells in canonical form (`Memory.wf` in Machine/Memory.lean): an address not listed reads as at reset. -/
abbrev Memory := List Host.Cell

/-- SCREEN (R20): 32 rows of 64 pixels, `true` is on. -/
abbrev Screen := Vector (Vector Bool 64) 32

/-- The whole state: 10_state.md section 1, row by row, then the parameter FONT and the model's own two fields. -/
structure State where
  /-- V0 to VF (R10). -/
  v : Vector Byte 16
  /-- I (R16). -/
  i : Word
  /-- PC (R13). -/
  pc : Word
  /-- DT (R17). -/
  dt : Byte
  /-- ST (R17). -/
  st : Byte
  /-- STACK[0..15] (R18). -/
  stack : Vector Word 16
  /-- SP, the stack depth, 0 to 16 (R18). -/
  sp : Fin 17
  /-- MEM (R19, R40). -/
  mem : Memory
  /-- SCREEN (R20). -/
  screen : Screen
  /-- KEYS[0..15] (R21), `true` is down. -/
  keys : Vector Bool 16
  /-- STATUS.STATE (R24). -/
  status : Status
  /-- STATUS.WAITREG (R24). -/
  waitReg : Reg
  /-- STATUS.FCAUSE (R25). -/
  fcause : FaultCause
  /-- STATUS.FPC (R25). -/
  fpc : Word
  /-- STATUS.FOP (R25). -/
  fop : Word
  /-- STATUS.FINFO (R25). -/
  finfo : Word
  /-- FONT (R6, R47): no state of the machine but the parameter it takes as an argument (R27, D15), carried here so that a statement about every state is about every FONT; no transition writes it (log entry 5). -/
  font : Config.Font
  /-- The model's own: how many RND draws have been taken, the argument of `Config.draw` (R131; log entry 2). -/
  draws : Nat
  /-- The model's own: whose transitions come next; when it is empty the core's `Step` comes next (R4, D22; log entry 1). -/
  schedule : List Turn
  deriving DecidableEq, Repr

/-- The state after `Reset` of the machine whose FONT is `f` (R28): MEM lists nothing, so it reads FONT at 0 to 79 and 0 elsewhere. Every value is the spec's but those of the model's own fields, `draws` and `schedule` (log entries 1 and 2). -/
def State.resetWith (f : Config.Font) : State where
  v := Vector.replicate 16 0
  i := 0
  pc := 0
  dt := 0
  st := 0
  stack := Vector.replicate 16 0
  sp := 0
  mem := []
  screen := Vector.replicate 32 (Vector.replicate 64 false)
  keys := Vector.replicate 16 false
  status := .run
  waitReg := 0
  fcause := .none
  fpc := 0
  fop := 0
  finfo := 0
  font := f
  draws := 0
  schedule := []

/-- The state after `Reset`, with FONT at its default (R47; log entry 5). -/
def State.reset : State := State.resetWith defaultFont

/-- Why a step has no next state. -/
inductive Fault where
  /-- Raised by `step` alone, at the core's turn in STATUS.STATE = FAULT: there is no enabled Step (R192), with the cause recorded. Safe: the machine is stopped there until a Reset (log entry 4). No instruction raises it: a faulting instruction enters the FAULT state as a next state (R191). -/
  | halted (cause : FaultCause)
  deriving DecidableEq, Repr

/-- Why an instruction has no meaning. -/
inductive Refusal where
  /-- An instruction the model gives no meaning yet, by its mnemonic; raised by an arm of `exec`, and none does. Safe. -/
  | notModelled (mnemonic : String)
  deriving DecidableEq, Repr

/-- What a step or a meaning answers. -/
abbrev Result := Host.Outcome State Fault Refusal

end Sys2Proof.Machine
end

