-- ==== Sys2Proof/Machine/Memory.lean ====
section
/-! DEFINITION. MEM (spec 20_memory.md R40, R42, R43, R46, R47): what an address reads as, and byte reads and writes that keep the canonical form.
FONT is a parameter (R47), so what an unlisted address reads as, and with it every operation, takes it as an argument. -/

namespace Sys2Proof.Machine

open Sys2Proof

namespace Memory

/-- What an address no cell lists reads as: the reset contents, FONT at 0 to 79 and 0 elsewhere (R28, R46). -/
def unlisted (f : Config.Font) (a : Nat) : Byte := if h : a < Config.fontSize then f[a]'h else 0

/-- The byte at an address (R40); the bounds check is the accessor's (`State.inRange`, R42). -/
def get (f : Config.Font) : Memory → Nat → Byte
  | [], a => unlisted f a
  | c :: m, a => if c.1 = a then c.2 else get f m a

/-- Forget what is listed at an address. -/
def erase (m : Memory) (a : Nat) : Memory := m.filter fun c => c.1 != a

/-- List a cell before the first cell of a higher address. -/
def insert (c : Host.Cell) : Memory → Memory
  | [] => [c]
  | d :: m => if c.1 < d.1 then c :: d :: m else d :: insert c m

/-- Write a byte (R43): memory is unchanged at an address of 4096 or more; a byte equal to the reset contents is not listed. -/
def set (f : Config.Font) (m : Memory) (a : Nat) (b : Byte) : Memory :=
  if a < Config.memSize then
    if b = unlisted f a then m.erase a else insert (a, b) (m.erase a)
  else m

/-- Write bytes at rising addresses, lowest first. -/
def store (f : Config.Font) (m : Memory) (a : Nat) : List Byte → Memory
  | [] => m
  | b :: bs => store f (m.set f a b) (a + 1) bs

/-- Read `n` bytes at rising addresses. -/
def load (f : Config.Font) (m : Memory) (a n : Nat) : List Byte := (List.range n).map fun k => m.get f (a + k)

/-- Strictly rising addresses. -/
def rising : Memory → Bool
  | c :: d :: m => decide (c.1 < d.1) && rising (d :: m)
  | _ => true

/-- The canonical form: addresses strictly rising and in memory, no cell equal to the reset contents. -/
def wf (f : Config.Font) (m : Memory) : Bool :=
  rising m && m.all fun c => decide (c.1 < Config.memSize) && c.2 != unlisted f c.1

end Memory

end Sys2Proof.Machine
end

