-- ==== Sys2Proof/Machine/Ops.lean ====
section
/-! DEFINITION. The named operations over registers, the stack, the screen and the keys, taking a fault (spec 60_exceptions.md R191), and the skip (R90). -/

namespace Sys2Proof.Machine

open Sys2Proof

namespace State

/-! ## Registers (10_state.md R10, R13, R16, R17) -/

/-- `V[x]` (R8). -/
def reg (s : State) (x : Reg) : Byte := s.v[x.toNat]'x.isLt

/-- `V[x] <- b` (R8). -/
def setReg (s : State) (x : Reg) (b : Byte) : State := { s with v := s.v.set x.toNat b x.isLt }

/-- `PC <- target` (R8). -/
def setPc (s : State) (p : Word) : State := { s with pc := p }

/-- `I <- w` (R8). -/
def setI (s : State) (w : Word) : State := { s with i := w }

/-- `DT <- b`. -/
def setDt (s : State) (b : Byte) : State := { s with dt := b }

/-- `ST <- b`. -/
def setSt (s : State) (b : Byte) : State := { s with st := b }

/-- A flag and a result: VF is written first and the result second, so a result in VF replaces the flag (R9). -/
def setFlagThenReg (s : State) (flag : Byte) (x : Reg) (b : Byte) : State :=
  (s.setReg vf flag).setReg x b

/-- `skip` (R8, R90): PC moves 2 further, modulo 65536. -/
def skip (s : State) : State := s.setPc (s.pc + 2)

/-- Skip when a condition holds (R84 to R87, R150, R151). -/
def skipIf (s : State) (c : Bool) : State := if c then s.skip else s

/-! ## The fault entry (R191) -/

/-- `raise`: only STATUS is written (R191). -/
def raise (s : State) (c : FaultCause) (fpc fop finfo : Word) : State :=
  { s with status := .fault, fcause := c, fpc := fpc, fop := fop, finfo := finfo }

/-- A fault of an instruction in execute: PC keeps the fetch's advance, FPC is the instruction's address, the current PC minus 2 (R190, R191). -/
def raiseExec (s : State) (c : FaultCause) (i : Instr) (info : Nat) : State :=
  s.raise c (s.pc - 2) (encode i) (BitVec.ofNat 16 info)

/-- A fault of the fetch: PC is unchanged, FPC and FINFO are PC, FOP is 0 (R41, R190). -/
def raiseFetch (s : State) : State := s.raise .fetchBounds s.pc 0 s.pc

/-- A fault of Load: FPC and FOP are 0, FINFO is the size (R190). -/
def raiseLoad (s : State) (size : Nat) : State := s.raise .loadSize 0 0 (BitVec.ofNat 16 size)

/-! ## The stack (R18) -/

/-- STACK[k]. -/
def stackAt (s : State) (k : Fin 16) : Word := s.stack[k.val]'k.isLt

/-- Push, or nothing when SP = 16 (R18). -/
def push? (s : State) (w : Word) : Option State :=
  if h : s.sp.val < Config.stackDepth then
    some { s with stack := s.stack.set s.sp.val w h, sp := ⟨s.sp.val + 1, Nat.succ_lt_succ h⟩ }
  else none

/-- Pop, or nothing when SP = 0 (R18): the popped entry keeps its value in STACK. -/
def pop? (s : State) : Option (Word × State) :=
  if h : 0 < s.sp.val then
    some (s.stack[s.sp.val - 1]'(by have := s.sp.isLt; omega),
      { s with sp := ⟨s.sp.val - 1, by have := s.sp.isLt; omega⟩ })
  else none

/-! ## Memory (20_memory.md R42, R43, R49) -/

/-- The byte at an address, for the data path and for statements. -/
def byteAt (s : State) (a : Nat) : Byte := s.mem.get s.font a

/-- Replace MEM. -/
def setMem (s : State) (m : Memory) : State := { s with mem := m }

/-- Store bytes at rising addresses (R43). -/
def storeBytes (s : State) (a : Nat) (bs : List Byte) : State := s.setMem (s.mem.store s.font a bs)

/-- The `n` bytes at rising addresses (R42). -/
def loadBytes (s : State) (a n : Nat) : List Byte := s.mem.load s.font a n

/-- Are the `n` addresses from `a` all in memory (R42)? With no address there is nothing to check (R137 corner case a). -/
def inRange (a n : Nat) : Bool := n == 0 || decide (a + n ≤ Config.memSize)

/-- The check that precedes every data access (R49): run `k` when the `n` addresses from I are in memory; else raise DataBounds for instruction `i` with the lowest offending address, max(I, 4096). -/
def withData (s : State) (i : Instr) (n : Nat) (k : State → State) : State :=
  if inRange s.i.toNat n then k s else s.raiseExec .dataBounds i (max s.i.toNat Config.memSize)

/-! ## Screen and keys (R20, R21) -/

/-- SCREEN[r][c]; also what the host reads between transitions (R204). -/
def pixel (s : State) (r : Fin 32) (c : Fin 64) : Bool := (s.screen[r.val]'r.isLt)[c.val]'c.isLt

/-- Replace SCREEN. -/
def setScreen (s : State) (sc : Screen) : State := { s with screen := sc }

/-- KEYS[k]. -/
def key (s : State) (k : Key) : Bool := s.keys[k.toNat]'k.isLt

/-- `KEYS[k] <- b` (R201). -/
def setKey (s : State) (k : Key) (b : Bool) : State := { s with keys := s.keys.set k.toNat b k.isLt }

/-! ## The key wait and the draw -/

/-- Enter WAIT_KEY with the destination latched (R152). -/
def enterWait (s : State) (x : Reg) : State := { s with waitReg := x, status := .waitKey }

/-- Complete the wait with key `k` (R153). -/
def completeWait (s : State) (k : Key) : State :=
  { s.setReg s.waitReg (k.setWidth 8) with status := .run }

/-- Count one RND draw taken (R131). -/
def tookDraw (s : State) : State := { s with draws := s.draws + 1 }

/-- Leave the transitions `rest` for later (R4; the model's own field). -/
def setSchedule (s : State) (rest : List Turn) : State := { s with schedule := rest }

end State

namespace Screen

/-- A blank screen (R135). -/
def blank : Screen := Vector.replicate 32 (Vector.replicate 64 false)

/-- The pixel at row r and column c. -/
def get (sc : Screen) (r : Fin 32) (c : Fin 64) : Bool := (sc[r.val]'r.isLt)[c.val]'c.isLt

/-- XOR one pixel with 1 (R137). -/
def flip (sc : Screen) (r : Fin 32) (c : Fin 64) : Screen :=
  sc.set r.val ((sc[r.val]'r.isLt).set c.val (!sc.get r c) c.isLt) r.isLt

end Screen

end Sys2Proof.Machine
end

