-- ==== Sys2Proof/Machine/Operands.lean ====
section
/-! DEFINITION. The operand forms: immediates (spec 30_encoding.md R64), the address I + k (46_timers_memory.md R174), the decimal digits of a byte (R170), and the pixels a sprite covers (44_display.md R136, R137). -/

namespace Sys2Proof.Machine

open Sys2Proof

/-- `zext_16(nnn)` (R64). -/
def zextAddr (nnn : Addr) : Word := nnn.setWidth 16

/-- `zext_16` of a byte. -/
def zextByte (b : Byte) : Word := b.setWidth 16

/-- The effective address I + k, a natural number, never wrapped (R16, R174). -/
def State.ea (s : State) (k : Nat) : Nat := s.i.toNat + k

/-- The registers V0 to Vx in order (R171). -/
def State.regsUpTo (s : State) (x : Reg) : List Byte := s.v.toList.take (x.toNat + 1)

/-- The registers after V0 to Vx are loaded from memory at I (R172). -/
def State.loadRegs (s : State) (x : Reg) : State :=
  { s with v := Vector.ofFn fun k => if k.val ≤ x.toNat then s.byteAt (s.ea k.val) else s.v[k.val]'k.isLt }

/-- The address of the glyph a byte names, unmasked (R169, D12). -/
def glyphAddr (b : Byte) : Word :=
  BitVec.ofNat 16 (Config.fontBase + Config.glyphHeight * b.toNat)

/-- Hundreds, tens and units of a byte (R170). -/
def bcdDigits (b : Byte) : List Byte :=
  [BitVec.ofNat 8 (b.toNat / 100), BitVec.ofNat 8 (b.toNat / 10 % 10), BitVec.ofNat 8 (b.toNat % 10)]

/-! ## Sprites -/

/-- The screen row of sprite row `row` drawn at vy: modulo 32 (R136, 90_conflicts.md C1). -/
def spriteRow (vy : Byte) (row : Nat) : Fin 32 := Fin.ofNat 32 (vy.toNat + row)

/-- The screen column of sprite column `col` drawn at vx: modulo 64 (R136). -/
def spriteCol (vx : Byte) (col : Nat) : Fin 64 := Fin.ofNat 64 (vx.toNat + col)

/-- The sprite bit at column `col` of a row byte, most significant first (R137). -/
def spriteBit (b : Byte) (col : Nat) : Bool := b.getLsbD (7 - col)

/-- The pixels under the 1 bits of one sprite row, left to right. -/
def rowHits (vx vy : Byte) (row : Nat) (b : Byte) : List (Fin 32 × Fin 64) :=
  ((List.range 8).filter (spriteBit b)).map fun col => (spriteRow vy row, spriteCol vx col)

/-- The pixels under the 1 bits of a sprite whose first row is sprite row `row`, in the order R137's loops visit them. -/
def spriteHits (vx vy : Byte) : Nat → List Byte → List (Fin 32 × Fin 64)
  | _, [] => []
  | row, b :: bs => rowHits vx vy row b ++ spriteHits vx vy (row + 1) bs

/-- R137's inner step at each 1 bit, in order: note a pixel that is on, then flip it. The Bool is `collision`. -/
def xorPixels : List (Fin 32 × Fin 64) → Screen × Bool → Screen × Bool
  | [], acc => acc
  | p :: ps, (sc, hit) => xorPixels ps (sc.flip p.1 p.2, hit || sc.get p.1 p.2)

/-- Draw a sprite (R137): the new screen, and whether any pixel went from on to off. -/
def drawSprite (vx vy : Byte) (rows : List Byte) (sc : Screen) : Screen × Bool :=
  xorPixels (spriteHits vx vy 0 rows) (sc, false)

end Sys2Proof.Machine
end

