-- ==== Sys2Proof/Machine/Flags.lean ====
section
/-! DEFINITION. The values the six flag-writing instructions leave in VF (spec 10_state.md R23). -/

namespace Sys2Proof.Machine

open Sys2Proof

/-- 1 when the condition holds, else 0. -/
def flagOf (c : Bool) : Byte := if c then 1 else 0

/-- 8xy4: the carry, 1 iff the sum exceeds 255 (R114). -/
def carryFlag (a b : Byte) : Byte := flagOf (decide (255 < a.toNat + b.toNat))

/-- 8xy5 and 8xy7: 1 iff the first is strictly greater (R115, R117). -/
def greaterFlag (a b : Byte) : Byte := flagOf (decide (b.toNat < a.toNat))

/-- 8xy6: the bit shifted out (R116). -/
def lowBitFlag (a : Byte) : Byte := a &&& 1

/-- 8xyE: the raw masked byte, 0x80 or 0 (R118). -/
def highBitFlag (a : Byte) : Byte := a &&& 0x80

/-- Dxyn: 1 iff a pixel went from on to off (R137). -/
def collisionFlag (hit : Bool) : Byte := flagOf hit

end Sys2Proof.Machine
end

