-- ==== Sys2Proof/Machine/Alu.lean ====
section
/-! DEFINITION. The register-register ALU (spec 42_alu.md): operands are read before any write, VF is written first, the result second (00_scope.md R9). -/

namespace Sys2Proof.Machine

open Sys2Proof

/-- `LD Vx,Vy` (R110). -/
def execLdReg (x y : Reg) (s : State) : Result := .next (s.setReg x (s.reg y))

/-- `OR Vx,Vy` (R111). -/
def execOrReg (x y : Reg) (s : State) : Result := .next (s.setReg x (s.reg x ||| s.reg y))

/-- `AND Vx,Vy` (R112). -/
def execAndReg (x y : Reg) (s : State) : Result := .next (s.setReg x (s.reg x &&& s.reg y))

/-- `XOR Vx,Vy` (R113). -/
def execXorReg (x y : Reg) (s : State) : Result := .next (s.setReg x (s.reg x ^^^ s.reg y))

/-- `ADD Vx,Vy` (R114). -/
def execAddReg (x y : Reg) (s : State) : Result :=
  .next (s.setFlagThenReg (carryFlag (s.reg x) (s.reg y)) x (s.reg x + s.reg y))

/-- `SUB Vx,Vy` (R115): the flag is strictly greater. -/
def execSubReg (x y : Reg) (s : State) : Result :=
  .next (s.setFlagThenReg (greaterFlag (s.reg x) (s.reg y)) x (s.reg x - s.reg y))

/-- `SHR Vx` (R116): Vy plays no part. -/
def execShr (x : Reg) (s : State) : Result :=
  .next (s.setFlagThenReg (lowBitFlag (s.reg x)) x (s.reg x >>> 1))

/-- `SUBN Vx,Vy` (R117). -/
def execSubnReg (x y : Reg) (s : State) : Result :=
  .next (s.setFlagThenReg (greaterFlag (s.reg y) (s.reg x)) x (s.reg y - s.reg x))

/-- `SHL Vx` (R118): the flag is 0x80 or 0; Vy plays no part. -/
def execShl (x : Reg) (s : State) : Result :=
  .next (s.setFlagThenReg (highBitFlag (s.reg x)) x (s.reg x <<< 1))

end Sys2Proof.Machine
end

