-- ==== Sys2Proof/Machine/Control.lean ====
section
/-! DEFINITION. Control transfer (spec 40_control_flow.md). PC already holds the instruction's address plus 2 (00_scope.md R8). -/

namespace Sys2Proof.Machine

open Sys2Proof

/-- `RET` (R80). -/
def execRet (s : State) : Result :=
  match s.pop? with
  | some (w, t) => .next (t.setPc w)
  | none => .next (s.raiseExec .stackUnderflow .ret 0)

/-- `JP nnn` (R81). -/
def execJp (nnn : Addr) (s : State) : Result := .next (s.setPc (zextAddr nnn))

/-- `CALL nnn` (R82). -/
def execCall (nnn : Addr) (s : State) : Result :=
  match s.push? s.pc with
  | some t => .next (t.setPc (zextAddr nnn))
  | none => .next (s.raiseExec .stackOverflow (.call nnn) 0)

/-- `SE Vx,kk` (R84). -/
def execSeImm (x : Reg) (kk : Byte) (s : State) : Result := .next (s.skipIf (s.reg x == kk))

/-- `SNE Vx,kk` (R85). -/
def execSneImm (x : Reg) (kk : Byte) (s : State) : Result := .next (s.skipIf (s.reg x != kk))

/-- `SE Vx,Vy` (R86). -/
def execSeReg (x y : Reg) (s : State) : Result := .next (s.skipIf (s.reg x == s.reg y))

/-- `SNE Vx,Vy` (R87). -/
def execSneReg (x y : Reg) (s : State) : Result := .next (s.skipIf (s.reg x != s.reg y))

/-- `JP V0,nnn` (R88): the offset register is always V0. -/
def execJpV0 (nnn : Addr) (s : State) : Result :=
  .next (s.setPc (zextAddr nnn + zextByte (s.reg 0)))

end Sys2Proof.Machine
end

