-- ==== Sys2Proof/Machine/Display.lean ====
section
/-! DEFINITION. Display (spec 44_display.md). -/

namespace Sys2Proof.Machine

open Sys2Proof

/-- `CLS` (R135). -/
def execCls (s : State) : Result := .next (s.setScreen Screen.blank)

/-- The screen and the collision a DRW computes from the state before it (R137). -/
def State.drawn (s : State) (x y : Reg) (n : Nibble) : Screen × Bool :=
  drawSprite (s.reg x) (s.reg y) (s.loadBytes s.i.toNat n.toNat) s.screen

/-- `DRW Vx,Vy,n` (R137): all addresses are checked first, then the sprite is drawn and VF takes the collision. -/
def execDrw (x y : Reg) (n : Nibble) (s : State) : Result :=
  .next (s.withData (.drw x y n) n.toNat fun s =>
    (s.setScreen (s.drawn x y n).1).setReg vf (collisionFlag (s.drawn x y n).2))

end Sys2Proof.Machine
end

