-- ==== Sys2Proof/Machine/Holes.lean ====
section
/-! DEFINITION. The holes (spec 30_encoding.md R67): an opcode no tier recognises changes nothing in execute. -/

namespace Sys2Proof.Machine

open Sys2Proof

/-- The 0nnn hole (R89). -/
def execNop0 (s : State) : Result := .next s

/-- The 8xy_ holes (R119). -/
def execNop8 (s : State) : Result := .next s

/-- The E-family holes (R154). -/
def execNopE (s : State) : Result := .next s

/-- The F-family holes (R173). -/
def execNopF (s : State) : Result := .next s

end Sys2Proof.Machine
end

