-- ==== Sys2Proof/Machine/Immediate.lean ====
section
/-! DEFINITION. Immediate loads and add (spec 41_load_add_imm.md). -/

namespace Sys2Proof.Machine

open Sys2Proof

/-- `LD Vx,kk` (R100). -/
def execLdImm (x : Reg) (kk : Byte) (s : State) : Result := .next (s.setReg x kk)

/-- `ADD Vx,kk` (R101): wraps modulo 256, no carry. -/
def execAddImm (x : Reg) (kk : Byte) (s : State) : Result := .next (s.setReg x (s.reg x + kk))

/-- `LD I,nnn` (R102). -/
def execLdI (nnn : Addr) (s : State) : Result := .next (s.setI (zextAddr nnn))

end Sys2Proof.Machine
end

