-- ==== Sys2Proof/Machine/Keyboard.lean ====
section
/-! DEFINITION. Keyboard (spec 45_keyboard.md): the two skips on a key's level, and entering the key wait. -/

namespace Sys2Proof.Machine

open Sys2Proof

/-- Skip on the level of the key Vx names, or KeyRange when Vx > 15 (R150, R151): `want` is the level that skips. -/
def State.skipOnKey (s : State) (i : Instr) (x : Reg) (want : Bool) : State :=
  if (s.reg x).toNat ≤ 15 then s.skipIf (s.key ((s.reg x).setWidth 4) == want)
  else s.raiseExec .keyRange i (s.reg x).toNat

/-- `SKP Vx` (R150). -/
def execSkp (x : Reg) (s : State) : Result := .next (s.skipOnKey (.skp x) x true)

/-- `SKNP Vx` (R151). -/
def execSknp (x : Reg) (s : State) : Result := .next (s.skipOnKey (.sknp x) x false)

/-- `LD Vx,K`, first half (R152): the second half is the KeyDown event (R153, Machine/Events.lean). -/
def execLdVxK (x : Reg) (s : State) : Result := .next (s.enterWait x)

end Sys2Proof.Machine
end

