-- ==== Sys2Proof/Machine/Random.lean ====
section
/-! DEFINITION. Random (spec 43_random.md). -/

namespace Sys2Proof.Machine

open Sys2Proof

/-- `RND Vx,kk` (R130): the draw is the free value `Config.draw` at the number of draws taken so far (R131). -/
def execRnd (x : Reg) (kk : Byte) (s : State) : Result :=
  .next (s.tookDraw.setReg x (Config.draw s.draws &&& kk))

end Sys2Proof.Machine
end

