-- ==== Sys2Proof/Machine/TimersMemory.lean ====
section
/-! DEFINITION. The F family (spec 46_timers_memory.md): timers, index add, font, decimal digits, register block store and load. -/

namespace Sys2Proof.Machine

open Sys2Proof

/-- `LD Vx,DT` (R165). -/
def execLdVxDt (x : Reg) (s : State) : Result := .next (s.setReg x s.dt)

/-- `LD DT,Vx` (R166). -/
def execLdDtVx (x : Reg) (s : State) : Result := .next (s.setDt (s.reg x))

/-- `LD ST,Vx` (R167). -/
def execLdStVx (x : Reg) (s : State) : Result := .next (s.setSt (s.reg x))

/-- `ADD I,Vx` (R168): modulo 65536, no flag. -/
def execAddIVx (x : Reg) (s : State) : Result := .next (s.setI (s.i + zextByte (s.reg x)))

/-- `LD F,Vx` (R169). -/
def execLdFVx (x : Reg) (s : State) : Result := .next (s.setI (glyphAddr (s.reg x)))

/-- `LD B,Vx` (R170). -/
def execLdBVx (x : Reg) (s : State) : Result :=
  .next (s.withData (.ldBVx x) 3 fun s => s.storeBytes (s.ea 0) (bcdDigits (s.reg x)))

/-- `LD [I],Vx` (R171). -/
def execLdMemVx (x : Reg) (s : State) : Result :=
  .next (s.withData (.ldMemVx x) (x.toNat + 1) fun s => s.storeBytes (s.ea 0) (s.regsUpTo x))

/-- `LD Vx,[I]` (R172). -/
def execLdVxMem (x : Reg) (s : State) : Result :=
  .next (s.withData (.ldVxMem x) (x.toNat + 1) fun s => s.loadRegs x)

end Sys2Proof.Machine
end

