-- ==== Sys2Proof/Machine/Events.lean ====
section
/-! DEFINITION. The host's transitions (spec 00_scope.md R4; 60_exceptions.md R200 to R202; 70_reset_and_hazards.md R220, R224). A transition that is not enabled changes nothing (R192, R224). -/

namespace Sys2Proof.Machine

open Sys2Proof

/-- One timer's countdown: a timer at 0 stays at 0 (R200). -/
def countDown (b : Byte) : Byte := if b = 0 then 0 else b - 1

/-- `Tick` (R200): enabled in RUN and WAIT_KEY. -/
def tick (s : State) : State :=
  if s.status = .fault then s else (s.setDt (countDown s.dt)).setSt (countDown s.st)

/-- `KeySet(k, b)` (R201): enabled in RUN and WAIT_KEY. -/
def keySet (k : Key) (down : Bool) (s : State) : State :=
  if s.status = .fault then s else s.setKey k down

/-- A key-down event whose symbol maps to `k` (R153, R202): it completes a pending wait, an unmapped one is discarded, and outside WAIT_KEY it is dropped. -/
def keyMapped (k : Option Key) (s : State) : State :=
  if s.status = .waitKey then
    match k with
    | some k => s.completeWait k
    | none => s
  else s

/-- `KeyDown(sym)` (R202). -/
def keyDown (sym : Config.HostSymbol) (s : State) : State := keyMapped (Config.keymap sym) s

/-- `Reset` (R220): enabled in every status; MEM[0..79] takes the machine's FONT. FONT is a parameter, and the model's own fields are not the machine's: they stay (log entries 1, 2 and 5). -/
def resetEvent (s : State) : State :=
  { State.resetWith s.font with draws := s.draws, schedule := s.schedule }

/-- `Load(buf)` (R224): enabled in RUN; an oversize program raises LoadSize and copies nothing. -/
def load (buf : List Byte) (s : State) : State :=
  if s.status = .run then
    if buf.length ≤ Config.progMax then
      (s.storeBytes Config.progBase buf).setPc (BitVec.ofNat 16 Config.progBase)
    else s.raiseLoad buf.length
  else s

/-- One host transition (R4). -/
def hostEvent : HostEvent → State → State
  | .tick, s => tick s
  | .keySet k b, s => keySet k b s
  | .keyDown sym, s => keyDown sym s
  | .keyMapped k, s => keyMapped k s
  | .reset, s => resetEvent s
  | .load buf, s => load buf s

end Sys2Proof.Machine
end

