-- ==== Sys2Proof/Machine/Fetch.lean ====
section
/-! DEFINITION. The instruction fetch (spec 20_memory.md R41), and placing a word where the next fetch reads it. -/

namespace Sys2Proof.Machine

open Sys2Proof

/-- Can the two bytes at PC be fetched (R41)? -/
def State.canFetch (s : State) : Bool := decide (s.pc.toNat + 1 < Config.memSize)

/-- The opcode at PC (R41): the byte at the lower address is the high half. -/
def State.opcodeAt (s : State) : Word :=
  wordOfBytes (s.byteAt s.pc.toNat) (s.byteAt (s.pc.toNat + 1))

/-- The state in which the fetched instruction executes: PC advanced by 2 (R41). -/
def State.afterFetch (s : State) : State := s.setPc (s.pc + 2)

/-- The core ready to fetch: in RUN, its turn next, PC at a word of memory (0x200 when it is not). -/
def State.readyToFetch (s : State) : State :=
  { s with
    status := .run, schedule := [],
    pc := if s.canFetch then s.pc else BitVec.ofNat 16 Config.progBase }

/-- Store a word at PC as memory stores it (R41). -/
def State.placeWord (s : State) (op : Word) : State :=
  s.storeBytes s.pc.toNat (bytesOfWord op)

end Sys2Proof.Machine
end

