-- ==== Sys2Proof/Machine/Step.lean ====
section
/-! DEFINITION. `step`: the next transition of the machine (spec 00_scope.md R4, 30_encoding.md R62), and `withFetchWord`. -/

namespace Sys2Proof.Machine

open Sys2Proof

/-- The core's `Step` (R62): enabled in RUN only. In WAIT_KEY the core holds (R152, log entry 4); in FAULT there is no next state (R192, log entry 4). -/
def coreStep (s : State) : Host.Outcome State Fault Refusal :=
  match s.status with
  | .run =>
    if s.canFetch then exec (decodeWord s.opcodeAt) s.afterFetch else .next s.raiseFetch
  | .waitKey => .next s
  | .fault => .fault (.halted s.fcause)

/-- The next transition (R4): the schedule's first turn, or the core's when the schedule is empty (log entry 1). -/
def step (s : State) : Host.Outcome State Fault Refusal :=
  match s.schedule with
  | [] => coreStep s
  | .core :: rest => coreStep (s.setSchedule rest)
  | .host e :: rest => .next (hostEvent e (s.setSchedule rest))

/-- `s` with the word `w` (its low `nbits` bits) stored at PC and the core ready to fetch it (log entry 6). -/
def State.withFetchWord (s : State) (nbits w : Nat) : State :=
  s.readyToFetch.placeWord (BitVec.ofNat 16 (w % 2 ^ nbits))

end Sys2Proof.Machine
end

