-- ==== Sys2Proof/Machine/Run.lean ====
section
/-! DEFINITION. Runs and how one ends (spec 70_reset_and_hazards.md R227). The machine has no halt; R227 leaves the end of a run to the model and suggests the jump to itself, which the model takes (log entry 12). -/

namespace Sys2Proof.Machine

open Sys2Proof

/-- The end of a run (R227's suggestion; log entry 12): in RUN, PC holds the address of a `1nnn` that jumps to itself. A state in FAULT is never one, and WAIT_KEY is a hold. -/
def State.ended (s : State) : Bool :=
  (s.status == .run) && s.canFetch && (decodeWord s.opcodeAt == .jp (s.pc.setWidth 12))

/-- `n` steps lead from `s` to `t`. -/
def Reaches : Nat → State → State → Prop
  | 0, s, t => t = s
  | n + 1, s, t => ∃ u, step s = .next u ∧ Reaches n u t

/-- A run from `s` ends at `t` (R227; log entry 12). -/
def EndsAt (s t : State) : Prop := ∃ n, Reaches n s t ∧ t.ended = true

end Sys2Proof.Machine
end

