-- ==== Sys2Proof/Safety.lean ====
section
/-! DEFINITION. What a safe run keeps, in the terms statements use: no fault (spec 60_exceptions.md R192), and the invariant every transition keeps. -/

namespace Sys2Proof.Machine

open Sys2Proof

/-- No fault has been raised: what a claim about a program must show of its end (R192). -/
def State.Safe (s : State) : Prop := s.status ≠ .fault

/-- The largest value PC can take: Bnnn with nnn = 0xFFF and V0 = 0xFF (R15). -/
abbrev pcMax : Nat := 0x10FE

/-- The invariant of every transition (Step and the host's). -/
structure Inv (s : State) : Prop where
  /-- MEM is in canonical form, every listed address below 4096 (R40). -/
  memCanonical : s.mem.wf s.font = true
  /-- PC never exceeds 0x10FE (R15). -/
  pcBounded : s.pc.toNat ≤ pcMax
  /-- Every stack entry was a PC value (R15, R18). -/
  stackBounded : ∀ k : Fin 16, (s.stackAt k).toNat ≤ pcMax
  /-- The machine is in FAULT exactly when a cause is recorded (R25, R191). -/
  causeRecorded : s.status = .fault ↔ s.fcause ≠ .none

/-- The core's turn is next: the schedule is empty, or its first turn is the core's (R4). -/
def State.coreNext (s : State) : Bool :=
  match s.schedule with
  | [] | .core :: _ => true
  | .host _ :: _ => false

/-- Step is enabled and next, and its fetch stays in memory (R41, R62). -/
def State.ready (s : State) : Bool := s.coreNext && (s.status == .run) && s.canFetch

/-- The state in which the instruction at PC executes: the turn is used up and the fetch has advanced PC (R62). -/
def State.executing (s : State) : State := (s.setSchedule s.schedule.tail).afterFetch

end Sys2Proof.Machine
end

