-- ==== Sys2Proof/Certificates/Slice0/Obligations.lean ====
section
/-! DEFINITION. The statements for the provers, and the words they are stated in: the parts of the state an instruction leaves as they were, the fault entry, and the tables of 10_state.md and 60_exceptions.md.
In a statement about `exec`, `s.pc` is already the instruction's address plus 2 (00_scope.md R8). -/

namespace Sys2Proof.Claims

open Sys2Proof Sys2Proof.Machine

/-- The parts of the state a frame speaks of; together they are all of it. -/
inductive Part where
  | regs | i | pc | dt | st | stack | mem | screen | keys | status | waitReg | record | font | draws | schedule
  deriving DecidableEq, Repr

/-- A part reads in `t` as it did in `s`: registers, stack entries, memory bytes, pixels and keys one by one. -/
def Kept (s t : State) : Part → Prop
  | .regs => ∀ r : Reg, t.reg r = s.reg r
  | .i => t.i = s.i
  | .pc => t.pc = s.pc
  | .dt => t.dt = s.dt
  | .st => t.st = s.st
  | .stack => t.sp = s.sp ∧ ∀ k : Fin 16, t.stackAt k = s.stackAt k
  | .mem => ∀ a : Nat, t.byteAt a = s.byteAt a
  | .screen => ∀ (r : Fin 32) (c : Fin 64), t.pixel r c = s.pixel r c
  | .keys => ∀ k : Key, t.key k = s.key k
  | .status => t.status = s.status
  | .waitReg => t.waitReg = s.waitReg
  | .record => t.fcause = s.fcause ∧ t.fpc = s.fpc ∧ t.fop = s.fop ∧ t.finfo = s.finfo
  | .font => t.font = s.font
  | .draws => t.draws = s.draws
  | .schedule => t.schedule = s.schedule

/-- Every part but the listed ones is kept. -/
def KeptBut (ps : List Part) (s t : State) : Prop := ∀ p : Part, p ∉ ps → Kept s t p

/-- Every register but those of a set is kept, and every part but the registers and the listed ones. -/
def RegsBut (w : Reg → Prop) (ps : List Part) (s t : State) : Prop :=
  (∀ r : Reg, ¬ w r → t.reg r = s.reg r) ∧ KeptBut (.regs :: ps) s t

/-- The fault entry (R191): STATUS takes the cause and the record, and nothing else changes. -/
def FaultEntered (s t : State) (c : FaultCause) (fpc fop : Word) (finfo : Nat) : Prop :=
  t.status = .fault ∧ t.fcause = c ∧ t.fpc = fpc ∧ t.fop = fop ∧ t.finfo.toNat = finfo % 65536 ∧
  KeptBut [.status, .record] s t

/-- The execute faults of R190: the condition under which an instruction raises one, its cause and its FINFO. -/
def execFault : Instr → State → Option (FaultCause × Nat)
  | .ret, s => if s.sp.val = 0 then some (.stackUnderflow, 0) else none
  | .call _, s => if s.sp.val = 16 then some (.stackOverflow, 0) else none
  | .drw _ _ n, s =>
    if 0 < n.toNat ∧ 4096 ≤ s.i.toNat + n.toNat - 1 then some (.dataBounds, max s.i.toNat 4096) else none
  | .ldBVx _, s => if 4096 ≤ s.i.toNat + 2 then some (.dataBounds, max s.i.toNat 4096) else none
  | .ldMemVx x, s => if 4096 ≤ s.i.toNat + x.toNat then some (.dataBounds, max s.i.toNat 4096) else none
  | .ldVxMem x, s => if 4096 ≤ s.i.toNat + x.toNat then some (.dataBounds, max s.i.toNat 4096) else none
  | .skp x, s => if 15 < (s.reg x).toNat then some (.keyRange, (s.reg x).toNat) else none
  | .sknp x, s => if 15 < (s.reg x).toNat then some (.keyRange, (s.reg x).toNat) else none
  | _, _ => none

/-- The register named as the ordinary destination or as a flag: the "writes" column of R12. -/
def writesReg : Instr → Reg → Prop
  | .ldImm x _, r | .addImm x _, r | .ldReg x _, r | .orReg x _, r | .andReg x _, r
  | .xorReg x _, r | .rnd x _, r | .ldVxDt x, r => r = x
  | .addReg x _, r | .subReg x _, r | .shr x _, r | .subnReg x _, r | .shl x _, r => r = x ∨ r = vf
  | .drw _ _ _, r => r = vf
  | .ldVxMem x, r => r.toNat ≤ x.toNat
  | _, _ => False

/-- The "reads" column of R12. -/
def readsReg : Instr → Reg → Prop
  | .seImm x _, r | .sneImm x _, r | .addImm x _, r | .shr x _, r | .shl x _, r | .skp x, r
  | .sknp x, r | .ldDtVx x, r | .ldStVx x, r | .addIVx x, r | .ldFVx x, r | .ldBVx x, r => r = x
  | .seReg x y _, r | .sneReg x y _, r | .orReg x y, r | .andReg x y, r | .xorReg x y, r
  | .addReg x y, r | .subReg x y, r | .subnReg x y, r | .drw x y _, r => r = x ∨ r = y
  | .ldReg _ y, r => r = y
  | .jpV0 _, r => r = 0
  | .ldMemVx x, r => r.toNat ≤ x.toNat
  | _, _ => False

/-- The parts other than registers that an instruction may change when it does not fault: the "written by" column of 10_state.md section 1. -/
def writesParts : Instr → List Part
  | .cls | .drw _ _ _ => [.screen]
  | .ret | .call _ => [.pc, .stack]
  | .jp _ | .jpV0 _ | .seImm _ _ | .sneImm _ _ | .seReg _ _ _ | .sneReg _ _ _ | .skp _ | .sknp _ => [.pc]
  | .ldI _ | .addIVx _ | .ldFVx _ => [.i]
  | .rnd _ _ => [.draws]
  | .ldVxK _ => [.status, .waitReg]
  | .ldDtVx _ => [.dt]
  | .ldStVx _ => [.st]
  | .ldBVx _ | .ldMemVx _ => [.mem]
  | _ => []

/-- PC after an instruction that does not fault (R14), given the advanced PC. -/
def pcAfter : Instr → State → Word
  | .ret, s => if h : 0 < s.sp.val then s.stackAt ⟨s.sp.val - 1, by have := s.sp.isLt; omega⟩ else s.pc
  | .jp nnn, _ | .call nnn, _ => nnn.setWidth 16
  | .jpV0 nnn, s => nnn.setWidth 16 + (s.reg 0).setWidth 16
  | .seImm x kk, s => if s.reg x = kk then s.pc + 2 else s.pc
  | .sneImm x kk, s => if s.reg x ≠ kk then s.pc + 2 else s.pc
  | .seReg x y _, s => if s.reg x = s.reg y then s.pc + 2 else s.pc
  | .sneReg x y _, s => if s.reg x ≠ s.reg y then s.pc + 2 else s.pc
  | .skp x, s => if s.key ((s.reg x).setWidth 4) = true then s.pc + 2 else s.pc
  | .sknp x, s => if s.key ((s.reg x).setWidth 4) = false then s.pc + 2 else s.pc
  | _, s => s.pc

/-- Is it one of the four holes' no-ops (R67)? -/
def isHole : Instr → Bool
  | .nop0 _ | .nop8 _ _ _ | .nopE _ _ | .nopF _ _ => true
  | _ => false

/-- Execute instructions one after another; none when one has no next state. -/
def execAll : List Instr → State → Option State
  | [], s => some s
  | j :: js, s =>
    match exec j s with
    | .next t => execAll js t
    | _ => none

/-- The host events that leave a wait pending (R155). -/
def leavesWait : HostEvent → Prop
  | .tick | .keySet _ _ | .load _ => True
  | .keyDown sym => Config.keymap sym = none
  | .keyMapped k => k = none
  | .reset => False

/-- Does sprite row `row`, column `col` of the DRW at `s` have a 1 bit, and does it land on the pixel (r, c) (R136, R137)? -/
def lands (s : State) (x y : Reg) (row col : Nat) (r : Fin 32) (c : Fin 64) : Prop :=
  (s.byteAt (s.i.toNat + row)).getLsbD (7 - col) = true ∧
  r.val = ((s.reg y).toNat + row) % 32 ∧ c.val = ((s.reg x).toNat + col) % 64

end Sys2Proof.Claims

open Sys2Proof Sys2Proof.Machine Sys2Proof.Claims

/-! ## Encoding -/

/-- Decode and encode agree: the bytes of a well-formed instruction decode to it and leave the bytes that follow. -/
def Obligations.DecodeEncodeRoundTrip : Prop :=
  ∀ (j : Instr) (rest : List Byte), j.wellFormed = true → decode (encodeBytes j ++ rest) = .ok (j, rest)

/-- Every word is one well-formed instruction's word: no bit of any of the 65536 opcodes is dropped (R70). -/
def Obligations.EncodeDecodeRoundTrip : Prop :=
  ∀ w : Word, (decodeWord w).wellFormed = true ∧ encode (decodeWord w) = w

/-- The priority rule the spec derives (R71): the decoder takes the first row of the opcode table that accepts the word, the instruction rows never overlap one another, and the holes are the last four rows. -/
def Obligations.DecoderTakesFirstMatchingRow : Prop :=
  (∀ w : Word, (opcodeTable.find? fun r => r.accepts w).map OpRow.mnemonic = some (decodeWord w).mnemonic) ∧
  (∀ w : Word, ∀ r ∈ opcodeTable.take 34, ∀ q ∈ opcodeTable.take 34,
    r.accepts w = true → q.accepts w = true → r = q) ∧
  (opcodeTable.drop 34).map OpRow.mnemonic = ["NOP.0nnn", "NOP.8xyN", "NOP.Exkk", "NOP.Fxkk"] ∧
  ∀ r ∈ opcodeTable.drop 34, r.mask = 0xF000#16

/-- R69: only 0x00E0 is CLS and only 0x00EE is RET. -/
def Obligations.LiteralWordsAreWhole : Prop :=
  ∀ w : Word, (decodeWord w = .cls ↔ w = 0x00E0#16) ∧ (decodeWord w = .ret ↔ w = 0x00EE#16)

/-- R68: the low nibble of 5xyN and 9xyN changes nothing of what the instruction does. -/
def Obligations.LowNibbleOfRegisterSkipsIgnored : Prop :=
  ∀ (x y : Reg) (n : Nibble) (s : State),
    decodeWord (0x5#4 ++ x ++ y ++ n) = .seReg x y n ∧
    (∃ t, exec (.seReg x y n) s = .next t ∧ exec (.seReg x y 0) s = .next t) ∧
    decodeWord (0x9#4 ++ x ++ y ++ n) = .sneReg x y n ∧
    (∃ t, exec (.sneReg x y n) s = .next t ∧ exec (.sneReg x y 0) s = .next t)

/-- A few words of the spec's examples decode to the instructions they stand for. -/
def Obligations.SampleWordsDecode : Prop :=
  decodeWord 0x00E0#16 = .cls ∧ decodeWord 0x1234#16 = .jp 0x234 ∧ decodeWord 0x332A#16 = .seImm 3 0x2A ∧
  decodeWord 0x6A7F#16 = .ldImm 0xA 0x7F ∧ decodeWord 0x8014#16 = .addReg 0 1 ∧
  decodeWord 0xA2F0#16 = .ldI 0x2F0 ∧ decodeWord 0xC30F#16 = .rnd 3 0x0F ∧
  decodeWord 0xD125#16 = .drw 1 2 5 ∧ decodeWord 0xE49E#16 = .skp 4 ∧ decodeWord 0xF265#16 = .ldVxMem 2 ∧
  decodeWord 0x0123#16 = .nop0 0x123

/-- The holes (R119, R154, R173, and 0nnn: R89): every word of a hole decodes to that hole's no-op, and executing the no-op changes nothing. -/
def Obligations.HolesChangeNothing : Prop :=
  (∀ (x y : Reg) (n : Nibble), (n.toNat ∈ [8, 9, 0xA, 0xB, 0xC, 0xD, 0xF]) →
    decodeWord (0x8#4 ++ x ++ y ++ n) = .nop8 x y n) ∧
  (∀ (x : Reg) (kk : Byte), kk.toNat ∉ [0x9E, 0xA1] → decodeWord (0xE#4 ++ x ++ kk) = .nopE x kk) ∧
  (∀ (x : Reg) (kk : Byte), kk.toNat ∉ [0x07, 0x0A, 0x15, 0x18, 0x1E, 0x29, 0x33, 0x55, 0x65] →
    decodeWord (0xF#4 ++ x ++ kk) = .nopF x kk) ∧
  (∀ nnn : Addr, nnn ≠ 0x0E0 → nnn ≠ 0x0EE → decodeWord (0x0#4 ++ nnn) = .nop0 nnn) ∧
  (∀ (x y : Reg) (n : Nibble) (s : State), exec (.nop8 x y n) s = .next s) ∧
  (∀ (x : Reg) (kk : Byte) (s : State), exec (.nopE x kk) s = .next s ∧ exec (.nopF x kk) s = .next s) ∧
  (∀ (nnn : Addr) (s : State), exec (.nop0 nnn) s = .next s)

/-- R89: the whole Step of a hole advances PC by 2 and leaves everything else as before. -/
def Obligations.HoleStepOnlyAdvancesPc : Prop :=
  ∀ s : State, s.status = .run → s.pc.toNat ≤ 4094 → isHole (decodeWord s.opcodeAt) = true →
    ∃ t, coreStep s = .next t ∧ t.pc = s.pc + 2 ∧ KeptBut [.pc] s t

/-! ## Step and the transitions -/

/-- R41: in RUN the core's Step reads two bytes at any PC up to 4094, odd or even, the byte at the lower address as the high half, advances PC by 2 and executes the decoded instruction; above 4094 it raises FetchBounds and leaves PC. -/
def Obligations.FetchThenExecute : Prop :=
  ∀ s : State, s.status = .run →
    if s.pc.toNat ≤ 4094 then
      ∃ op : Word, op.toNat = (s.byteAt s.pc.toNat).toNat * 256 + (s.byteAt (s.pc.toNat + 1)).toNat ∧
        coreStep s = exec (decodeWord op) { s with pc := s.pc + 2 }
    else
      ∃ t, coreStep s = .next t ∧ FaultEntered s t .fetchBounds s.pc 0 s.pc.toNat

/-- A step runs the decoded instruction (R41, R62): at the core's turn in RUN it fetches two bytes, high byte first, advances PC by 2 and executes the decoded instruction; with PC above 4094 it raises FetchBounds and leaves PC. That the turn is the first of the schedule, and is used up, is the model's choice (log entry 1). -/
def Obligations.StepFetchesThenExecutes : Prop :=
  ∀ s : State, s.coreNext = true → s.status = .run →
    if s.pc.toNat ≤ 4094 then
      ∃ op : Word, op.toNat = (s.byteAt s.pc.toNat).toNat * 256 + (s.byteAt (s.pc.toNat + 1)).toNat ∧
        step s = exec (decodeWord op) { s with pc := s.pc + 2, schedule := s.schedule.tail }
    else
      ∃ t, step s = .next t ∧
        FaultEntered { s with schedule := s.schedule.tail } t .fetchBounds s.pc 0 s.pc.toNat

/-- The host's turn (R4): the step is the host's transition. (The schedule is the model's: log entry 1.) -/
def Obligations.HostTurnIsTheHostsTransition : Prop :=
  ∀ (s : State) (e : HostEvent) (rest : List Turn), s.schedule = .host e :: rest →
    step s = .next (hostEvent e { s with schedule := rest })

/-- Totality (R5, R70): every step answers a next state, but the core's turn in FAULT, which answers the recorded cause; none is refused. (The answer in FAULT is the model's: log entry 4.) -/
def Obligations.EveryStepAnswers : Prop :=
  ∀ s : State, (∃ t, step s = .next t) ∨
    (s.status = .fault ∧ s.coreNext = true ∧ step s = .fault (.halted s.fcause))

/-- PC after every instruction's execute stage (R14): the table of pcAfter when the instruction does not fault, the advanced PC when it does. -/
def Obligations.PcAfterEveryInstruction : Prop :=
  ∀ (j : Instr) (s : State), ∃ t, exec j s = .next t ∧
    t.pc = if (execFault j s).isSome then s.pc else pcAfter j s

/-- The faults (R190, R191): which transition raises which fault, on exactly which condition, with which record, and that nothing else changes. -/
def Obligations.FaultTableAndEntry : Prop :=
  (∀ (j : Instr) (s : State), ∃ t, exec j s = .next t ∧
    match execFault j s with
    | some (c, info) => FaultEntered s t c (s.pc - 2) (encode j) info
    | none => s.status ≠ .fault → t.status ≠ .fault) ∧
  (∀ s : State, s.status = .run → 4094 < s.pc.toNat →
    ∃ t, coreStep s = .next t ∧ FaultEntered s t .fetchBounds s.pc 0 s.pc.toNat) ∧
  (∀ (s : State) (buf : List Byte), s.status = .run → 3584 < buf.length →
    FaultEntered s (hostEvent (.load buf) s) .loadSize 0 0 buf.length) ∧
  ([FaultCause.fetchBounds, .dataBounds, .stackOverflow, .stackUnderflow, .keyRange, .loadSize].map
    fun c => c.code.toNat) = [1, 2, 3, 4, 5, 6]

/-- R192: FAULT is terminal: the core's Step has no next state, Tick, KeySet, KeyDown and Load change nothing, and Reset leaves it. -/
def Obligations.FaultStateIsTerminal : Prop :=
  ∀ s : State, s.status = .fault →
    (∀ t, coreStep s ≠ .next t) ∧
    (∀ e : HostEvent, e ≠ .reset → hostEvent e s = s) ∧
    (hostEvent .reset s).status = .run

/-! ## Control transfer -/

/-- R81, R88: JP sets PC to nnn, JP V0 to nnn plus V0, unmasked; nothing else changes. -/
def Obligations.JumpsSetPc : Prop :=
  ∀ (nnn : Addr) (s : State),
    decodeWord (0x1#4 ++ nnn) = .jp nnn ∧
    (∃ t, exec (.jp nnn) s = .next t ∧ t.pc.toNat = nnn.toNat ∧ KeptBut [.pc] s t) ∧
    decodeWord (0xB#4 ++ nnn) = .jpV0 nnn ∧
    (∃ t, exec (.jpV0 nnn) s = .next t ∧ t.pc.toNat = nnn.toNat + (s.reg 0).toNat ∧ KeptBut [.pc] s t)

/-- A jump to its own address is a Step that changes nothing (R81's corner case, R227). -/
def Obligations.JumpToSelfChangesNothing : Prop :=
  ∀ (nnn : Addr) (s : State), s.ready = true → s.opcodeAt = 0x1#4 ++ nnn → s.pc = nnn.setWidth 16 →
    step s = .next { s with schedule := s.schedule.tail }

/-- R82: CALL pushes the advanced PC and jumps, or raises StackOverflow when sixteen calls are outstanding. -/
def Obligations.CallPushesReturnAddress : Prop :=
  ∀ (nnn : Addr) (s : State), decodeWord (0x2#4 ++ nnn) = .call nnn ∧
    ∃ t, exec (.call nnn) s = .next t ∧
      if s.sp.val < 16 then
        t.pc.toNat = nnn.toNat ∧ t.sp.val = s.sp.val + 1 ∧
        (∀ k : Fin 16, t.stackAt k = if k.val = s.sp.val then s.pc else s.stackAt k) ∧
        KeptBut [.pc, .stack] s t
      else FaultEntered s t .stackOverflow (s.pc - 2) (0x2#4 ++ nnn) 0

/-- R80: RET pops the last return address into PC unmodified, or raises StackUnderflow when the stack is empty; the entry keeps its value. -/
def Obligations.RetPopsReturnAddress : Prop :=
  ∀ s : State, decodeWord 0x00EE#16 = .ret ∧
    ∃ t, exec .ret s = .next t ∧
      if h : 0 < s.sp.val then
        t.pc = s.stackAt ⟨s.sp.val - 1, by have := s.sp.isLt; omega⟩ ∧ t.sp.val = s.sp.val - 1 ∧
        (∀ k : Fin 16, t.stackAt k = s.stackAt k) ∧ KeptBut [.pc, .stack] s t
      else FaultEntered s t .stackUnderflow (s.pc - 2) 0x00EE#16 0

/-- CALL then RET restores PC to the instruction after the CALL, and the depth, wherever the RET stands (R82, R83). -/
def Obligations.RetUndoesCall : Prop :=
  ∀ (nnn : Addr) (s : State) (p : Word), s.sp.val < 16 →
    ∃ t u, exec (.call nnn) s = .next t ∧ exec .ret (t.setPc p) = .next u ∧
      u.pc = s.pc ∧ u.sp = s.sp ∧ KeptBut [.stack] s u

/-- R84 to R87, R90: the compare skips move PC two further exactly when their condition holds, and change nothing else. -/
def Obligations.CompareSkipsMovePcByTwo : Prop :=
  ∀ (x y : Reg) (kk : Byte) (n : Nibble) (s : State),
    decodeWord (0x3#4 ++ x ++ kk) = .seImm x kk ∧ decodeWord (0x4#4 ++ x ++ kk) = .sneImm x kk ∧
    decodeWord (0x5#4 ++ x ++ y ++ n) = .seReg x y n ∧ decodeWord (0x9#4 ++ x ++ y ++ n) = .sneReg x y n ∧
    (∃ t, exec (.seImm x kk) s = .next t ∧
      t.pc.toNat = (s.pc.toNat + if s.reg x = kk then 2 else 0) % 65536 ∧ KeptBut [.pc] s t) ∧
    (∃ t, exec (.sneImm x kk) s = .next t ∧
      t.pc.toNat = (s.pc.toNat + if s.reg x ≠ kk then 2 else 0) % 65536 ∧ KeptBut [.pc] s t) ∧
    (∃ t, exec (.seReg x y n) s = .next t ∧
      t.pc.toNat = (s.pc.toNat + if s.reg x = s.reg y then 2 else 0) % 65536 ∧ KeptBut [.pc] s t) ∧
    (∃ t, exec (.sneReg x y n) s = .next t ∧
      t.pc.toNat = (s.pc.toNat + if s.reg x ≠ s.reg y then 2 else 0) % 65536 ∧ KeptBut [.pc] s t)

/-- The stack is last in, first out (R18): nested calls, at most sixteen deep, and as many returns come back to the PC and the depth they began with, and no entry below that depth has changed. -/
def Obligations.NestedCallsReturnInReverse : Prop :=
  ∀ (targets : List Addr) (s : State), s.sp.val + targets.length ≤ 16 →
    ∃ u, execAll (targets.map .call ++ List.replicate targets.length .ret) s = some u ∧
      u.pc = s.pc ∧ u.sp = s.sp ∧ (∀ k : Fin 16, k.val < s.sp.val → u.stackAt k = s.stackAt k) ∧
      KeptBut [.stack] s u

/-! ## Immediates -/

/-- R100, R101, R102: LD Vx,kk, ADD Vx,kk (modulo 256, no carry) and LD I,nnn, and all they leave. -/
def Obligations.ImmediateLoadsAndAdd : Prop :=
  ∀ (x : Reg) (kk : Byte) (nnn : Addr) (s : State),
    decodeWord (0x6#4 ++ x ++ kk) = .ldImm x kk ∧ decodeWord (0x7#4 ++ x ++ kk) = .addImm x kk ∧
    decodeWord (0xA#4 ++ nnn) = .ldI nnn ∧
    (∃ t, exec (.ldImm x kk) s = .next t ∧ t.reg x = kk ∧ RegsBut (· = x) [] s t) ∧
    (∃ t, exec (.addImm x kk) s = .next t ∧ (t.reg x).toNat = ((s.reg x).toNat + kk.toNat) % 256 ∧
      RegsBut (· = x) [] s t) ∧
    (∃ t, exec (.ldI nnn) s = .next t ∧ t.i.toNat = nnn.toNat ∧ KeptBut [.i] s t)

/-! ## The register ALU -/

/-- R110 to R113: LD, OR, AND and XOR write Vx and leave every other register, VF among them. -/
def Obligations.MovesAndLogicWriteOnlyVx : Prop :=
  ∀ (x y : Reg) (s : State),
    decodeWord (0x8#4 ++ x ++ y ++ 0x0#4) = .ldReg x y ∧ decodeWord (0x8#4 ++ x ++ y ++ 0x1#4) = .orReg x y ∧
    decodeWord (0x8#4 ++ x ++ y ++ 0x2#4) = .andReg x y ∧ decodeWord (0x8#4 ++ x ++ y ++ 0x3#4) = .xorReg x y ∧
    (∃ t, exec (.ldReg x y) s = .next t ∧ t.reg x = s.reg y ∧ RegsBut (· = x) [] s t) ∧
    (∃ t, exec (.orReg x y) s = .next t ∧
      (∀ k, (t.reg x).getLsbD k = ((s.reg x).getLsbD k || (s.reg y).getLsbD k)) ∧ RegsBut (· = x) [] s t) ∧
    (∃ t, exec (.andReg x y) s = .next t ∧
      (∀ k, (t.reg x).getLsbD k = ((s.reg x).getLsbD k && (s.reg y).getLsbD k)) ∧ RegsBut (· = x) [] s t) ∧
    (∃ t, exec (.xorReg x y) s = .next t ∧
      (∀ k, (t.reg x).getLsbD k = ((s.reg x).getLsbD k ^^ (s.reg y).getLsbD k)) ∧ RegsBut (· = x) [] s t)

/-- R114, R115, R117: ADD, SUB and SUBN put the result modulo 256 in Vx and, unless x is F, the carry or the strict comparison in VF. -/
def Obligations.AddAndSubtractWithFlag : Prop :=
  ∀ (x y : Reg) (s : State),
    decodeWord (0x8#4 ++ x ++ y ++ 0x4#4) = .addReg x y ∧ decodeWord (0x8#4 ++ x ++ y ++ 0x5#4) = .subReg x y ∧
    decodeWord (0x8#4 ++ x ++ y ++ 0x7#4) = .subnReg x y ∧
    (∃ t, exec (.addReg x y) s = .next t ∧
      (t.reg x).toNat = ((s.reg x).toNat + (s.reg y).toNat) % 256 ∧
      (x ≠ vf → (t.reg vf).toNat = if (s.reg x).toNat + (s.reg y).toNat > 255 then 1 else 0) ∧
      RegsBut (fun r => r = x ∨ r = vf) [] s t) ∧
    (∃ t, exec (.subReg x y) s = .next t ∧
      (t.reg x).toNat = ((s.reg x).toNat + 256 - (s.reg y).toNat) % 256 ∧
      (x ≠ vf → (t.reg vf).toNat = if (s.reg x).toNat > (s.reg y).toNat then 1 else 0) ∧
      RegsBut (fun r => r = x ∨ r = vf) [] s t) ∧
    (∃ t, exec (.subnReg x y) s = .next t ∧
      (t.reg x).toNat = ((s.reg y).toNat + 256 - (s.reg x).toNat) % 256 ∧
      (x ≠ vf → (t.reg vf).toNat = if (s.reg y).toNat > (s.reg x).toNat then 1 else 0) ∧
      RegsBut (fun r => r = x ∨ r = vf) [] s t)

/-- R116, R118: SHR and SHL shift Vx by one bit, whatever y, and unless x is F leave the bit shifted out in VF: 0 or 1 for SHR, 0 or 0x80 for SHL. -/
def Obligations.ShiftsWithFlag : Prop :=
  ∀ (x y : Reg) (s : State),
    decodeWord (0x8#4 ++ x ++ y ++ 0x6#4) = .shr x y ∧ decodeWord (0x8#4 ++ x ++ y ++ 0xE#4) = .shl x y ∧
    (∃ t, exec (.shr x y) s = .next t ∧ (t.reg x).toNat = (s.reg x).toNat / 2 ∧
      (x ≠ vf → (t.reg vf).toNat = (s.reg x).toNat % 2) ∧ RegsBut (fun r => r = x ∨ r = vf) [] s t) ∧
    (∃ t, exec (.shl x y) s = .next t ∧ (t.reg x).toNat = (s.reg x).toNat * 2 % 256 ∧
      (x ≠ vf → (t.reg vf).toNat = if 128 ≤ (s.reg x).toNat then 0x80 else 0) ∧
      RegsBut (fun r => r = x ∨ r = vf) [] s t)

/-- The table the spec derives (R121): what VF and Vx hold when a flag-writing ALU instruction names VF, column by column (x = F; y = F; both). -/
def Obligations.VfAsOperandTable : Prop :=
  ∀ (z : Reg) (s : State), z ≠ vf →
    let f := (s.reg vf).toNat
    let v := (s.reg z).toNat
    ((∃ t, exec (.addReg vf z) s = .next t ∧ (t.reg vf).toNat = (f + v) % 256) ∧
     (∃ t, exec (.addReg z vf) s = .next t ∧ (t.reg z).toNat = (v + f) % 256 ∧
       (t.reg vf).toNat = (v + f) / 256) ∧
     (∃ t, exec (.addReg vf vf) s = .next t ∧ (t.reg vf).toNat = 2 * f % 256)) ∧
    ((∃ t, exec (.subReg vf z) s = .next t ∧ (t.reg vf).toNat = (f + 256 - v) % 256) ∧
     (∃ t, exec (.subReg z vf) s = .next t ∧ (t.reg z).toNat = (v + 256 - f) % 256 ∧
       (t.reg vf).toNat = if v > f then 1 else 0) ∧
     (∃ t, exec (.subReg vf vf) s = .next t ∧ (t.reg vf).toNat = 0)) ∧
    ((∃ t, exec (.shr vf z) s = .next t ∧ (t.reg vf).toNat = f / 2) ∧
     (∃ t, exec (.shr z vf) s = .next t ∧ (t.reg z).toNat = v / 2 ∧ (t.reg vf).toNat = v % 2) ∧
     (∃ t, exec (.shr vf vf) s = .next t ∧ (t.reg vf).toNat = f / 2)) ∧
    ((∃ t, exec (.subnReg vf z) s = .next t ∧ (t.reg vf).toNat = (v + 256 - f) % 256) ∧
     (∃ t, exec (.subnReg z vf) s = .next t ∧ (t.reg z).toNat = (f + 256 - v) % 256 ∧
       (t.reg vf).toNat = if f > v then 1 else 0) ∧
     (∃ t, exec (.subnReg vf vf) s = .next t ∧ (t.reg vf).toNat = 0)) ∧
    ((∃ t, exec (.shl vf z) s = .next t ∧ (t.reg vf).toNat = 2 * f % 256) ∧
     (∃ t, exec (.shl z vf) s = .next t ∧ (t.reg z).toNat = 2 * v % 256 ∧
       (t.reg vf).toNat = if 128 ≤ v then 0x80 else 0) ∧
     (∃ t, exec (.shl vf vf) s = .next t ∧ (t.reg vf).toNat = 2 * f % 256))

/-! ## Random -/

/-- RND (R130, R131) puts the AND of a fresh draw and kk in Vx. That the draw is `Config.draw` at a counter the step advances is the model's form of it (log entry 2); the statement holds whatever `Config.draw` is. -/
def Obligations.RandomMasksAFreshDraw : Prop :=
  ∀ (x : Reg) (kk : Byte) (s : State), decodeWord (0xC#4 ++ x ++ kk) = .rnd x kk ∧
    ∃ t, exec (.rnd x kk) s = .next t ∧
      (∀ k, (t.reg x).getLsbD k = ((Config.draw s.draws).getLsbD k && kk.getLsbD k)) ∧
      t.draws = s.draws + 1 ∧ RegsBut (· = x) [.draws] s t

/-! ## Display -/

/-- R135: CLS turns every pixel off and changes nothing else. -/
def Obligations.ClsTurnsEveryPixelOff : Prop :=
  ∀ s : State, decodeWord 0x00E0#16 = .cls ∧
    ∃ t, exec .cls s = .next t ∧ (∀ (r : Fin 32) (c : Fin 64), t.pixel r c = false) ∧ KeptBut [.screen] s t

/-- R136, R137, R138: DRW XORs the sprite at I onto the screen, both coordinates wrapping; VF is 1 exactly when a 1 bit met a pixel that was on before, else 0; if any of its rows lies at 4096 or above, and n is not 0, it raises DataBounds and draws nothing. -/
def Obligations.DrwXorsTheSprite : Prop :=
  ∀ (x y : Reg) (n : Nibble) (s : State), decodeWord (0xD#4 ++ x ++ y ++ n) = .drw x y n ∧
    ∃ t, exec (.drw x y n) s = .next t ∧
      if n.toNat = 0 ∨ s.i.toNat + n.toNat ≤ 4096 then
        (∀ (r : Fin 32) (c : Fin 64),
          (t.pixel r c ≠ s.pixel r c ↔ ∃ row < n.toNat, ∃ col < 8, lands s x y row col r c)) ∧
        ((t.reg vf).toNat = 1 ↔ ∃ row < n.toNat, ∃ col < 8, ∃ r c, lands s x y row col r c ∧ s.pixel r c = true) ∧
        ((t.reg vf).toNat = 0 ∨ (t.reg vf).toNat = 1) ∧
        RegsBut (· = vf) [.screen] s t
      else FaultEntered s t .dataBounds (s.pc - 2) (0xD#4 ++ x ++ y ++ n) (max s.i.toNat 4096)

/-- Two identical draws restore the screen (R139's first half). What the second VF is follows R137 and R138 and not R139's second half as printed, which contradicts them: that is the model's choice (log entry 7). The second draw collides exactly when some 1 bit fell on a pixel that was off before the first, so, when the first did not collide, exactly when the sprite has a 1 bit. x and y are not F, so the first draw's VF does not move the origin. -/
def Obligations.DrawingTwiceRestoresTheScreen : Prop :=
  ∀ (x y : Reg) (n : Nibble) (s : State), x ≠ vf → y ≠ vf → (n.toNat = 0 ∨ s.i.toNat + n.toNat ≤ 4096) →
    ∃ t u, exec (.drw x y n) s = .next t ∧ exec (.drw x y n) t = .next u ∧
      (∀ (r : Fin 32) (c : Fin 64), u.pixel r c = s.pixel r c) ∧
      ((u.reg vf).toNat = 1 ↔ ∃ row < n.toNat, ∃ col < 8, ∃ r c, lands s x y row col r c ∧ s.pixel r c = false) ∧
      ((t.reg vf).toNat = 0 →
        ((u.reg vf).toNat = 1 ↔ ∃ row < n.toNat, ∃ col < 8, (s.byteAt (s.i.toNat + row)).getLsbD col = true))

/-- R139's second half, which the spec derives, as it is printed, for any screen: the second VF is 1 if and only if the sprite has a 1 bit. It contradicts R137 and R138 where every 1 bit first falls on a lit pixel, so it is expected to FAIL (log entry 7). -/
def Obligations.SecondDrawCollidesIffSpriteHasABit : Prop :=
  ∀ (x y : Reg) (n : Nibble) (s t u : State), x ≠ vf → y ≠ vf → (n.toNat = 0 ∨ s.i.toNat + n.toNat ≤ 4096) →
    exec (.drw x y n) s = .next t → exec (.drw x y n) t = .next u →
    ((u.reg vf).toNat = 1 ↔ ∃ row < n.toNat, ∃ col < 8, (s.byteAt (s.i.toNat + row)).getLsbD col = true)

/-! ## Keyboard -/

/-- R150, R151: SKP and SKNP skip on the level of the key Vx names; a Vx above 15 raises KeyRange. -/
def Obligations.KeySkipsTestTheLevel : Prop :=
  ∀ (x : Reg) (s : State),
    decodeWord (0xE#4 ++ x ++ 0x9E#8) = .skp x ∧ decodeWord (0xE#4 ++ x ++ 0xA1#8) = .sknp x ∧
    (∃ t, exec (.skp x) s = .next t ∧
      if (s.reg x).toNat ≤ 15 then
        t.pc.toNat = (s.pc.toNat + if s.key ((s.reg x).setWidth 4) = true then 2 else 0) % 65536 ∧
        KeptBut [.pc] s t
      else FaultEntered s t .keyRange (s.pc - 2) (0xE#4 ++ x ++ 0x9E#8) (s.reg x).toNat) ∧
    (∃ t, exec (.sknp x) s = .next t ∧
      if (s.reg x).toNat ≤ 15 then
        t.pc.toNat = (s.pc.toNat + if s.key ((s.reg x).setWidth 4) = false then 2 else 0) % 65536 ∧
        KeptBut [.pc] s t
      else FaultEntered s t .keyRange (s.pc - 2) (0xE#4 ++ x ++ 0xA1#8) (s.reg x).toNat)

/-- LD Vx,K enters the wait (R152): the destination is latched, nothing else changes, and from then on the core's turn executes nothing. (That such a turn answers the unchanged state is the model's: log entry 4.) -/
def Obligations.KeyWaitSuspendsTheCore : Prop :=
  ∀ (x : Reg) (s : State), decodeWord (0xF#4 ++ x ++ 0x0A#8) = .ldVxK x ∧
    ∃ t, exec (.ldVxK x) s = .next t ∧ t.status = .waitKey ∧ t.waitReg = x ∧
      KeptBut [.status, .waitReg] s t ∧
      ∀ u : State, u.status = .waitKey → u.coreNext = true →
        step u = .next { u with schedule := u.schedule.tail }

/-- R153, R202: a key-down event whose symbol KEYMAP maps completes the wait and writes the latched register; an unmapped symbol changes nothing; outside WAIT_KEY the event is dropped. -/
def Obligations.KeyDownCompletesTheWait : Prop :=
  ∀ (sym : Config.HostSymbol) (s : State),
    hostEvent (.keyDown sym) s = hostEvent (.keyMapped (Config.keymap sym)) s ∧
    (s.status ≠ .waitKey → hostEvent (.keyDown sym) s = s) ∧
    (s.status = .waitKey →
      match Config.keymap sym with
      | none => hostEvent (.keyDown sym) s = s
      | some k =>
        ((hostEvent (.keyDown sym) s).reg s.waitReg).toNat = k.toNat ∧
        (hostEvent (.keyDown sym) s).status = .run ∧
        RegsBut (· = s.waitReg) [.status] s (hostEvent (.keyDown sym) s))

/-- During a wait (R155) only a mapped key-down or Reset ends it; Tick, KeySet, Load and an unmapped key-down leave the core waiting with the same latched register and PC. -/
def Obligations.OnlyAMappedKeyOrResetEndsTheWait : Prop :=
  ∀ s : State, s.status = .waitKey →
    (∀ e : HostEvent, leavesWait e →
      (hostEvent e s).status = .waitKey ∧ (hostEvent e s).waitReg = s.waitReg ∧ (hostEvent e s).pc = s.pc) ∧
    (∀ buf : List Byte, hostEvent (.load buf) s = s) ∧
    (hostEvent .tick s).dt.toNat = s.dt.toNat - 1 ∧
    (∀ (k : Key) (down : Bool), (hostEvent (.keySet k down) s).key k = down) ∧
    (hostEvent .reset s).status = .run

/-- R201: KeySet writes one key's level in RUN and WAIT_KEY, and nothing else; the core changes no key itself, neither by an instruction nor by a key-down event. -/
def Obligations.KeySetWritesOneKey : Prop :=
  ∀ (k : Key) (down : Bool) (s : State), s.status ≠ .fault →
    (∀ j : Key, (hostEvent (.keySet k down) s).key j = if j = k then down else s.key j) ∧
    KeptBut [.keys] s (hostEvent (.keySet k down) s) ∧
    (∀ j : Instr, ∃ t, exec j s = .next t ∧ Kept s t .keys) ∧
    (∀ sym : Config.HostSymbol, Kept s (hostEvent (.keyDown sym) s) .keys)

/-! ## Timers, index, memory -/

/-- R165, R166, R167: the timer moves. -/
def Obligations.TimerMoves : Prop :=
  ∀ (x : Reg) (s : State),
    decodeWord (0xF#4 ++ x ++ 0x07#8) = .ldVxDt x ∧ decodeWord (0xF#4 ++ x ++ 0x15#8) = .ldDtVx x ∧
    decodeWord (0xF#4 ++ x ++ 0x18#8) = .ldStVx x ∧
    (∃ t, exec (.ldVxDt x) s = .next t ∧ t.reg x = s.dt ∧ RegsBut (· = x) [] s t) ∧
    (∃ t, exec (.ldDtVx x) s = .next t ∧ t.dt = s.reg x ∧ KeptBut [.dt] s t) ∧
    (∃ t, exec (.ldStVx x) s = .next t ∧ t.st = s.reg x ∧ KeptBut [.st] s t)

/-- R200: Tick decrements each timer that is not 0, in RUN and WAIT_KEY, and changes nothing else. -/
def Obligations.TickDecrementsBothTimers : Prop :=
  ∀ s : State, s.status ≠ .fault →
    (hostEvent .tick s).dt.toNat = (if s.dt.toNat > 0 then s.dt.toNat - 1 else 0) ∧
    (hostEvent .tick s).st.toNat = (if s.st.toNat > 0 then s.st.toNat - 1 else 0) ∧
    KeptBut [.dt, .st] s (hostEvent .tick s)

/-- A countdown: after n Ticks each timer holds its value less n, never below 0 (R200). -/
def Obligations.TicksCountDownToZero : Prop :=
  ∀ (n : Nat) (s : State), s.status ≠ .fault →
    ((hostEvent .tick)^[n] s).dt.toNat = s.dt.toNat - n ∧
    ((hostEvent .tick)^[n] s).st.toNat = s.st.toNat - n ∧
    KeptBut [.dt, .st] s ((hostEvent .tick)^[n] s)

/-- R168, R169: ADD I,Vx adds modulo 65536 without a flag; LD F,Vx sets I to five times Vx, unmasked. -/
def Obligations.IndexAddAndGlyphAddress : Prop :=
  ∀ (x : Reg) (s : State),
    decodeWord (0xF#4 ++ x ++ 0x1E#8) = .addIVx x ∧ decodeWord (0xF#4 ++ x ++ 0x29#8) = .ldFVx x ∧
    (∃ t, exec (.addIVx x) s = .next t ∧ t.i.toNat = (s.i.toNat + (s.reg x).toNat) % 65536 ∧ KeptBut [.i] s t) ∧
    (∃ t, exec (.ldFVx x) s = .next t ∧ t.i.toNat = 5 * (s.reg x).toNat ∧ KeptBut [.i] s t)

/-- R170: LD B,Vx stores the three decimal digits of Vx at I, I + 1, I + 2, or raises DataBounds and stores nothing. -/
def Obligations.BcdStoresThreeDigits : Prop :=
  ∀ (x : Reg) (s : State), decodeWord (0xF#4 ++ x ++ 0x33#8) = .ldBVx x ∧
    ∃ t, exec (.ldBVx x) s = .next t ∧
      if s.i.toNat + 2 < 4096 then
        (t.byteAt s.i.toNat).toNat = (s.reg x).toNat / 100 ∧
        (t.byteAt (s.i.toNat + 1)).toNat = (s.reg x).toNat / 10 % 10 ∧
        (t.byteAt (s.i.toNat + 2)).toNat = (s.reg x).toNat % 10 ∧
        (∀ a, (a < s.i.toNat ∨ s.i.toNat + 2 < a) → t.byteAt a = s.byteAt a) ∧ KeptBut [.mem] s t
      else FaultEntered s t .dataBounds (s.pc - 2) (0xF#4 ++ x ++ 0x33#8) (max s.i.toNat 4096)

/-- R171: LD [I],Vx stores V0 to Vx from I upward and leaves I, or raises DataBounds and stores nothing. -/
def Obligations.StoreRegistersFromI : Prop :=
  ∀ (x : Reg) (s : State), decodeWord (0xF#4 ++ x ++ 0x55#8) = .ldMemVx x ∧
    ∃ t, exec (.ldMemVx x) s = .next t ∧
      if s.i.toNat + x.toNat < 4096 then
        (∀ r : Reg, r.toNat ≤ x.toNat → t.byteAt (s.i.toNat + r.toNat) = s.reg r) ∧
        (∀ a, (a < s.i.toNat ∨ s.i.toNat + x.toNat < a) → t.byteAt a = s.byteAt a) ∧ KeptBut [.mem] s t
      else FaultEntered s t .dataBounds (s.pc - 2) (0xF#4 ++ x ++ 0x55#8) (max s.i.toNat 4096)

/-- R172: LD Vx,[I] loads V0 to Vx from I upward and leaves I, memory and the registers above Vx, or raises DataBounds and loads nothing. -/
def Obligations.LoadRegistersFromI : Prop :=
  ∀ (x : Reg) (s : State), decodeWord (0xF#4 ++ x ++ 0x65#8) = .ldVxMem x ∧
    ∃ t, exec (.ldVxMem x) s = .next t ∧
      if s.i.toNat + x.toNat < 4096 then
        (∀ r : Reg, r.toNat ≤ x.toNat → t.reg r = s.byteAt (s.i.toNat + r.toNat)) ∧
        RegsBut (fun r => r.toNat ≤ x.toNat) [] s t
      else FaultEntered s t .dataBounds (s.pc - 2) (0xF#4 ++ x ++ 0x65#8) (max s.i.toNat 4096)

/-- The round trip the spec derives (R175): a store then a load with the same x and I gives V0 to Vx back, whatever the registers held in between. -/
def Obligations.StoreThenLoadRoundTrips : Prop :=
  ∀ (x : Reg) (s : State) (between : Vector Byte 16), s.i.toNat + x.toNat < 4096 →
    ∃ t u, exec (.ldMemVx x) s = .next t ∧ exec (.ldVxMem x) { t with v := between } = .next u ∧
      (∀ r : Reg, r.toNat ≤ x.toNat → u.reg r = s.reg r) ∧ u.i = s.i

/-- Code and data are one memory, as the spec derives (R52, R54): a store is seen by the next fetch, the byte of the lower-numbered register as the high byte of the opcode. -/
def Obligations.StoredBytesAreFetched : Prop :=
  ∀ (x k : Reg) (s : State), s.i.toNat + x.toNat < 4096 → k.toNat < x.toNat →
    ∃ t, exec (.ldMemVx x) s = .next t ∧
      ∀ u : State, u.mem = t.mem → u.font = t.font → u.pc.toNat = s.i.toNat + k.toNat → u.ready = true →
        ∃ op : Word, op.toNat = (s.reg k).toNat * 256 + (s.reg (k + 1)).toNat ∧
          step u = exec (decodeWord op) u.executing

/-! ## Reset and Load -/

/-- The value of every piece of state after reset (R28), for every FONT. (That State.reset takes the default FONT is the model's choice: log entry 5.) -/
def Obligations.ResetValues : Prop :=
  ∀ f : Config.Font,
  State.reset = State.resetWith State.reset.font ∧
  (∀ r : Reg, (State.resetWith f).reg r = 0) ∧ (State.resetWith f).i = 0 ∧ (State.resetWith f).pc = 0 ∧
  (State.resetWith f).dt = 0 ∧ (State.resetWith f).st = 0 ∧ (State.resetWith f).sp = 0 ∧
  (∀ k : Fin 16, (State.resetWith f).stackAt k = 0) ∧
  (∀ (a : Nat) (h : a < 80), (State.resetWith f).byteAt a = f[a]) ∧
  (∀ a, 80 ≤ a → a < 4096 → (State.resetWith f).byteAt a = 0) ∧
  (∀ (r : Fin 32) (c : Fin 64), (State.resetWith f).pixel r c = false) ∧
  (∀ k : Key, (State.resetWith f).key k = false) ∧
  (State.resetWith f).status = .run ∧ (State.resetWith f).waitReg = 0 ∧ (State.resetWith f).fcause.code = 0 ∧
  (State.resetWith f).fpc = 0 ∧ (State.resetWith f).fop = 0 ∧ (State.resetWith f).finfo = 0

/-- R220: Reset is enabled in every status and brings every piece of the machine's state to its reset value, MEM[0..79] to the machine's FONT. -/
def Obligations.ResetRestoresEverything : Prop :=
  ∀ s : State, KeptBut [.draws, .schedule] (State.resetWith s.font) (hostEvent .reset s)

/-- R224, R225: in RUN, Load copies a program of at most 3584 bytes to 0x200 and sets PC to 0x200, and changes nothing else; a larger one raises LoadSize and copies nothing; outside RUN Load has no effect. -/
def Obligations.LoadCopiesTheProgram : Prop :=
  ∀ (buf : List Byte) (s : State),
    (s.status ≠ .run → hostEvent (.load buf) s = s) ∧
    (s.status = .run →
      if buf.length ≤ 3584 then
        (hostEvent (.load buf) s).pc = 0x200 ∧
        (∀ k, k < buf.length → (hostEvent (.load buf) s).byteAt (0x200 + k) = buf.getD k 0) ∧
        (∀ a, (a < 0x200 ∨ 0x200 + buf.length ≤ a) → (hostEvent (.load buf) s).byteAt a = s.byteAt a) ∧
        KeptBut [.pc, .mem] s (hostEvent (.load buf) s) ∧
        (2 ≤ buf.length → (hostEvent (.load buf) s).opcodeAt.toNat =
          (buf.getD 0 0).toNat * 256 + (buf.getD 1 0).toNat)
      else FaultEntered s (hostEvent (.load buf) s) .loadSize 0 0 buf.length)

/-- How a program comes to run (R226): after Reset and Load, the core's first turn executes the program's first word at 0x200 on an otherwise reset machine. The schedule that orders the three turns is the model's choice (log entries 1 and 6). -/
def Obligations.BootRunsTheProgram : Prop :=
  ∀ (s : State) (buf : List Byte) (rest : List Turn), 2 ≤ buf.length → buf.length ≤ 3584 →
    s.schedule = .host .reset :: .host (.load buf) :: rest →
    ∃ t u, step s = .next t ∧ step t = .next u ∧ u.schedule = rest ∧
      KeptBut [.pc, .mem, .draws, .schedule] (State.resetWith s.font) u ∧
      (u.coreNext = true → ∃ op : Word, op.toNat = (buf.getD 0 0).toNat * 256 + (buf.getD 1 0).toNat ∧
        step u = exec (decodeWord op) { u with pc := 0x202, schedule := rest.tail })

/-- FONT is a parameter (R27, R47): no step changes it, Reset copies it to 0 to 79 whatever it is, and glyph d of it lies at 5d to 5d + 4, where LD F,Vx points. It is carried in State (log entry 5). -/
def Obligations.FontIsAParameter : Prop :=
  (∀ s t : State, step s = .next t → t.font = s.font) ∧
  (∀ (s : State) (a : Nat) (h : a < 80), (hostEvent .reset s).byteAt a = s.font[a]) ∧
  (∀ (s : State) (x : Reg) (d k : Nat) (hd : d < 16) (hk : k < 5),
    ∃ t, exec (.ldFVx x) ((hostEvent .reset s).setReg x (BitVec.ofNat 8 d)) = .next t ∧
      t.i.toNat = 5 * d ∧ t.byteAt (t.i.toNat + k) = s.font[5 * d + k]'(by show 5 * d + k < 80; omega))

/-! ## The end of a run -/

/-- The end of a run (R227): in RUN, PC at the address of a 1nnn that jumps to itself; FAULT is never one and WAIT_KEY is none; the core's Step changes nothing there. That this is the end of a run is the spec's suggestion, which the model takes (log entry 12). -/
def Obligations.EndOfRunIsASelfJump : Prop :=
  ∀ s : State,
    (s.ended = true ↔ s.status = .run ∧ s.pc.toNat ≤ 4094 ∧
      (s.byteAt s.pc.toNat).toNat * 256 + (s.byteAt (s.pc.toNat + 1)).toNat = 0x1000 + s.pc.toNat) ∧
    (s.ended = true → s.Safe ∧ s.status ≠ .waitKey ∧ coreStep s = .next s)

/-- An ended run stays ended (R227, R81): however many steps follow, whatever Ticks, KeySets and key-downs come, the state stays ended, and only the timers and the keys change (and the schedule, log entry 1). Reset and Load alone start another run. The end is the model's definition (log entry 12). -/
def Obligations.EndedRunStaysEnded : Prop :=
  ∀ (n : Nat) (s : State), s.ended = true →
    (∀ e, Turn.host e ∈ s.schedule → e ≠ .reset ∧ ∀ buf, e ≠ .load buf) →
    ∃ t, Reaches n s t ∧ EndsAt s t ∧ t.ended = true ∧ KeptBut [.dt, .st, .keys, .schedule] s t

/-! ## The whole machine -/

/-- The frame of every instruction: it changes no register outside its "writes" column of R12 and no part of the state outside its "written by" column, unless it faults, and then only STATUS. -/
def Obligations.EveryInstructionFrame : Prop :=
  ∀ (j : Instr) (s : State), ∃ t, exec j s = .next t ∧
    if (execFault j s).isSome then KeptBut [.status, .record] s t
    else RegsBut (writesReg j) (writesParts j) s t

/-- The "reads" column of R12: a register an instruction does not read cannot change what it does. -/
def Obligations.UnreadRegistersDoNotMatter : Prop :=
  ∀ (j : Instr) (s : State) (r : Reg) (b : Byte), ¬ readsReg j r →
    ∃ t u, exec j s = .next t ∧ exec j (s.setReg r b) = .next u ∧ RegsBut (· = r) [] t u

/-- VF (R23) is changed only by the six flag-writing instructions, or as an ordinary destination. -/
def Obligations.OnlyFlagWritersChangeVf : Prop :=
  ∀ (j : Instr) (s t : State), exec j s = .next t → t.reg vf ≠ s.reg vf →
    (∃ x y, j = .addReg x y ∨ j = .subReg x y ∨ j = .shr x y ∨ j = .subnReg x y ∨ j = .shl x y) ∨
    (∃ x y n, j = .drw x y n) ∨
    (∃ kk, j = .ldImm vf kk ∨ j = .addImm vf kk ∨ j = .rnd vf kk) ∨
    (∃ y, j = .ldReg vf y ∨ j = .orReg vf y ∨ j = .andReg vf y ∨ j = .xorReg vf y) ∨
    j = .ldVxDt vf ∨ j = .ldVxMem vf

/-- What no instruction reads: the screen but for DRW, the keys but for SKP and SKNP, the sound timer and the latched register at all (R17, R20, R205). -/
def Obligations.UnreadDevicesDoNotMatter : Prop :=
  ∀ (j : Instr) (s : State),
    (∀ sc : Screen, (∀ x y n, j ≠ .drw x y n) →
      ∃ t u, exec j s = .next t ∧ exec j (s.setScreen sc) = .next u ∧ KeptBut [.screen] t u) ∧
    (∀ ks : Vector Bool 16, (∀ x, j ≠ .skp x ∧ j ≠ .sknp x) →
      ∃ t u, exec j s = .next t ∧ exec j { s with keys := ks } = .next u ∧ KeptBut [.keys] t u) ∧
    (∀ (b : Byte) (w : Reg), ∃ t u, exec j s = .next t ∧
      exec j { s with st := b, waitReg := w } = .next u ∧ KeptBut [.st, .waitReg] t u)

/-- The invariant holds at reset. -/
def Obligations.InvAtReset : Prop := Inv State.reset

/-- Every step keeps the invariant: memory stays canonical, PC and every stack entry stay at most 0x10FE (R15), and FAULT is exactly a recorded cause (R25, R191). -/
def Obligations.StepKeepsInv : Prop :=
  ∀ s t : State, Inv s → step s = .next t → Inv t
end

