-- ==== Sys2Proof/Laws/Decode.lean ====
section
/-! SUPPORT. The fields of the words the encoder builds (spec 30_encoding.md R60, R61), and a word rebuilt from its fields. -/

namespace Sys2Proof

@[simp] theorem famOf_addr (f : Nibble) (nnn : Addr) : famOf (f ++ nnn) = f := by
  apply BitVec.eq_of_getLsbD_eq
  intro k hk
  interval_cases k <;> simp only [famOf, BitVec.getLsbD_extractLsb', BitVec.getLsbD_append] <;> simp

@[simp] theorem nnnOf_addr (f : Nibble) (nnn : Addr) : nnnOf (f ++ nnn) = nnn := by
  apply BitVec.eq_of_getLsbD_eq
  intro k hk
  interval_cases k <;> simp only [nnnOf, BitVec.getLsbD_extractLsb', BitVec.getLsbD_append] <;> simp

@[simp] theorem famOf_imm (f : Nibble) (x : Reg) (kk : Byte) : famOf (f ++ x ++ kk) = f := by
  apply BitVec.eq_of_getLsbD_eq
  intro k hk
  interval_cases k <;> simp only [famOf, BitVec.getLsbD_extractLsb', BitVec.getLsbD_append] <;> simp

@[simp] theorem xOf_imm (f : Nibble) (x : Reg) (kk : Byte) : xOf (f ++ x ++ kk) = x := by
  apply BitVec.eq_of_getLsbD_eq
  intro k hk
  interval_cases k <;> simp only [xOf, BitVec.getLsbD_extractLsb', BitVec.getLsbD_append] <;> simp

@[simp] theorem kkOf_imm (f : Nibble) (x : Reg) (kk : Byte) : kkOf (f ++ x ++ kk) = kk := by
  apply BitVec.eq_of_getLsbD_eq
  intro k hk
  interval_cases k <;> simp only [kkOf, BitVec.getLsbD_extractLsb', BitVec.getLsbD_append] <;> simp

@[simp] theorem famOf_regs (f : Nibble) (x y : Reg) (n : Nibble) : famOf (f ++ x ++ y ++ n) = f := by
  apply BitVec.eq_of_getLsbD_eq
  intro k hk
  interval_cases k <;> simp only [famOf, BitVec.getLsbD_extractLsb', BitVec.getLsbD_append] <;> simp

@[simp] theorem xOf_regs (f : Nibble) (x y : Reg) (n : Nibble) : xOf (f ++ x ++ y ++ n) = x := by
  apply BitVec.eq_of_getLsbD_eq
  intro k hk
  interval_cases k <;> simp only [xOf, BitVec.getLsbD_extractLsb', BitVec.getLsbD_append] <;> simp

@[simp] theorem yOf_regs (f : Nibble) (x y : Reg) (n : Nibble) : yOf (f ++ x ++ y ++ n) = y := by
  apply BitVec.eq_of_getLsbD_eq
  intro k hk
  interval_cases k <;> simp only [yOf, BitVec.getLsbD_extractLsb', BitVec.getLsbD_append] <;> simp

@[simp] theorem nOf_regs (f : Nibble) (x y : Reg) (n : Nibble) : nOf (f ++ x ++ y ++ n) = n := by
  apply BitVec.eq_of_getLsbD_eq
  intro k hk
  interval_cases k <;> simp only [nOf, BitVec.getLsbD_extractLsb', BitVec.getLsbD_append] <;> simp

/-- A word is its fields put back in their places. -/
theorem word_of_addr (op : Word) : famOf op ++ nnnOf op = op := by
  apply BitVec.eq_of_getLsbD_eq
  intro k hk
  interval_cases k <;> simp only [famOf, nnnOf, BitVec.getLsbD_extractLsb', BitVec.getLsbD_append] <;> simp

/-- A word is its fields put back in their places. -/
theorem word_of_imm (op : Word) : famOf op ++ xOf op ++ kkOf op = op := by
  apply BitVec.eq_of_getLsbD_eq
  intro k hk
  interval_cases k <;> simp only [famOf, xOf, kkOf, BitVec.getLsbD_extractLsb', BitVec.getLsbD_append] <;> simp

/-- A word is its fields put back in their places. -/
theorem word_of_regs (op : Word) : famOf op ++ xOf op ++ yOf op ++ nOf op = op := by
  apply BitVec.eq_of_getLsbD_eq
  intro k hk
  interval_cases k <;> simp only [famOf, xOf, yOf, nOf, BitVec.getLsbD_extractLsb', BitVec.getLsbD_append] <;> simp

/-- The word two bytes make has those bytes (R41). -/
theorem wordOfBytes_bytes (op : Word) : wordOfBytes (highByte op) (lowByte op) = op := by
  apply BitVec.eq_of_getLsbD_eq
  intro k hk
  interval_cases k <;> simp only [wordOfBytes, highByte, lowByte, BitVec.getLsbD_extractLsb', BitVec.getLsbD_append] <;> simp

/-- The opcode as a number (R41): the byte at the lower address counts 256. -/
theorem toNat_wordOfBytes (hi lo : Byte) : (wordOfBytes hi lo).toNat = hi.toNat * 256 + lo.toNat := by
  rw [wordOfBytes, BitVec.toNat_append, ← Nat.shiftLeft_add_eq_or_of_lt lo.isLt, Nat.shiftLeft_eq]

/-- Tier 1 takes no word of a family other than 0. -/
theorem decodeWord_of_fam {w : Word} (h : famOf w ≠ 0) : decodeWord w = decodeFamily w := by
  unfold decodeWord
  rw [if_neg (by rintro rfl; exact h (by decide)), if_neg (by rintro rfl; exact h (by decide))]

/-- The byte decoder on two bytes and a rest. -/
theorem decode_cons (hi lo : Byte) (rest : List Byte) :
    decode (hi :: lo :: rest) = .ok (decodeWord (wordOfBytes hi lo), rest) := rfl

end Sys2Proof
end

