-- ==== Sys2Proof/Laws/Memory.lean ====
section
/-! SUPPORT. What reading, writing and the canonical form of MEM do, once each. -/

namespace Sys2Proof.Machine.Memory

open Sys2Proof

variable (f : Config.Font)

/-! ## Reading what was written -/

theorem get_erase (m : Memory) (a c : Nat) :
    (m.erase a).get f c = if c = a then unlisted f c else m.get f c := by
  induction m with
  | nil => simp [erase, get]
  | cons d m ih =>
    simp only [erase] at ih
    by_cases h : d.1 = a
    · simp only [erase, List.filter_cons, h, bne_self_eq_false, Bool.false_eq_true, if_false, ih, get]
      split <;> simp_all [eq_comm]
    · have hb : (d.1 != a) = true := by simpa using h
      simp only [erase, List.filter_cons, hb, if_true, get, ih]
      split <;> split <;> simp_all

theorem get_insert (m : Memory) (a : Nat) (b : Byte) (hm : ∀ d ∈ m, d.1 ≠ a) (c : Nat) :
    (insert (a, b) m).get f c = if c = a then b else m.get f c := by
  induction m with
  | nil =>
    by_cases h : c = a
    · simp [insert, get, h]
    · simp [insert, get, h, Ne.symm h]
  | cons d m ih =>
    have hd : d.1 ≠ a := hm d (by simp)
    have ih := ih fun e he => hm e (by simp [he])
    simp only [insert]
    split
    · by_cases h : c = a
      · simp [get, h]
      · simp [get, h, Ne.symm h]
    · simp only [get, ih]
      split <;> split <;> simp_all

theorem not_listed_erase (m : Memory) (a : Nat) : ∀ d ∈ m.erase a, d.1 ≠ a := by
  intro d hd
  simpa [erase] using (List.mem_filter.mp hd).2

/-- Read after write, at every address: the written address reads as the byte, every other as before. -/
theorem get_set (m : Memory) (a : Nat) (b : Byte) (ha : a < Config.memSize) (c : Nat) :
    (m.set f a b).get f c = if c = a then b else m.get f c := by
  unfold set
  simp only [ha, if_true]
  split
  · next hb => rw [get_erase]; split <;> simp_all
  · rw [get_insert _ _ _ _ (not_listed_erase m a), get_erase]
    split <;> simp_all

theorem set_out_of_range (m : Memory) (a : Nat) (b : Byte) (ha : Config.memSize ≤ a) :
    m.set f a b = m := by
  simp [set, Nat.not_lt.mpr ha]

/-- A store: the bytes stored read back in order, every other address reads as before. -/
theorem get_store (bs : List Byte) (m : Memory) (a : Nat) (h : a + bs.length ≤ Config.memSize) (c : Nat) :
    (m.store f a bs).get f c = if a ≤ c ∧ c < a + bs.length then bs.getD (c - a) 0 else m.get f c := by
  induction bs generalizing m a with
  | nil => simp [store]
  | cons b bs ih =>
    simp only [List.length_cons] at h
    rw [store, ih _ _ (by omega), get_set _ _ _ _ (by omega)]
    simp only [List.length_cons]
    by_cases hc : c = a
    · subst hc
      simp
    · by_cases h1 : a + 1 ≤ c ∧ c < a + 1 + bs.length
      · have h2 : a ≤ c ∧ c < a + (bs.length + 1) := by omega
        have h3 : c - a = (c - (a + 1)) + 1 := by omega
        rw [if_pos h1, if_pos h2, h3, List.getD_cons_succ]
      · have h2 : ¬ (a ≤ c ∧ c < a + (bs.length + 1)) := by omega
        rw [if_neg h1, if_neg h2, if_neg hc]

@[simp] theorem length_load (m : Memory) (a n : Nat) : (m.load f a n).length = n := by simp [load]

theorem getD_load (m : Memory) (a n k : Nat) (h : k < n) : (m.load f a n).getD k 0 = m.get f (a + k) := by
  simp [load, List.getD, h]

/-! ## The canonical form -/

/-- Every address is at least `lo`, strictly rising: what `rising` says, with the next admissible address. -/
def risingFrom : Nat → Memory → Prop
  | _, [] => True
  | lo, c :: m => lo ≤ c.1 ∧ risingFrom (c.1 + 1) m

theorem rising_cons_iff (c : Host.Cell) (m : Memory) :
    rising (c :: m) = true ↔ risingFrom (c.1 + 1) m := by
  induction m generalizing c with
  | nil => simp [rising, risingFrom]
  | cons d m ih => simp [rising, risingFrom, ih]

theorem rising_iff (m : Memory) : rising m = true ↔ risingFrom 0 m := by
  cases m with
  | nil => simp [rising, risingFrom]
  | cons c m => simp [rising_cons_iff, risingFrom]

theorem risingFrom_mono {lo hi : Nat} (h : lo ≤ hi) {m : Memory} (hm : risingFrom hi m) : risingFrom lo m := by
  cases m with
  | nil => trivial
  | cons c m => exact ⟨le_trans h hm.1, hm.2⟩

theorem risingFrom_filter (p : Host.Cell → Bool) (m : Memory) :
    ∀ lo, risingFrom lo m → risingFrom lo (m.filter p) := by
  induction m with
  | nil => intro lo _; trivial
  | cons c m ih =>
    intro lo h
    simp only [List.filter_cons]
    split
    · exact ⟨h.1, ih _ h.2⟩
    · exact ih _ (risingFrom_mono (by have := h.1; omega) h.2)

theorem risingFrom_insert (c : Host.Cell) (m : Memory) (hm : ∀ d ∈ m, d.1 ≠ c.1) :
    ∀ lo, lo ≤ c.1 → risingFrom lo m → risingFrom lo (insert c m) := by
  induction m with
  | nil => intro lo h _; exact ⟨h, trivial⟩
  | cons d m ih =>
    intro lo hlo h
    have hd : d.1 ≠ c.1 := hm d (by simp)
    simp only [insert]
    split
    · next hlt => exact ⟨hlo, hlt, h.2⟩
    · exact ⟨h.1, ih (fun e he => hm e (by simp [he])) _ (by omega) h.2⟩

theorem mem_insert (c d : Host.Cell) (m : Memory) : d ∈ insert c m ↔ d = c ∨ d ∈ m := by
  induction m with
  | nil => simp [insert]
  | cons e m ih =>
    simp only [insert]
    split
    · simp
    · simp only [List.mem_cons, ih]; tauto

theorem wf_iff (m : Memory) :
    m.wf f = true ↔ risingFrom 0 m ∧ ∀ c ∈ m, c.1 < Config.memSize ∧ c.2 ≠ unlisted f c.1 := by
  simp [wf, rising_iff]

/-- A write keeps the canonical form. -/
theorem wf_set (m : Memory) (a : Nat) (b : Byte) (h : m.wf f = true) : (m.set f a b).wf f = true := by
  rw [wf_iff] at h ⊢
  unfold set
  split
  · next ha =>
    have he : risingFrom 0 (m.erase a) := risingFrom_filter _ _ _ h.1
    have hall : ∀ c ∈ m.erase a, c.1 < Config.memSize ∧ c.2 ≠ unlisted f c.1 :=
      fun c hc => h.2 c (List.mem_filter.mp hc).1
    split
    · exact ⟨he, hall⟩
    · next hb =>
      refine ⟨risingFrom_insert _ _ (not_listed_erase m a) _ (Nat.zero_le _) he, fun c hc => ?_⟩
      rcases (mem_insert _ _ _).mp hc with rfl | hc
      · exact ⟨ha, hb⟩
      · exact hall c hc
  · exact h

/-- A store keeps the canonical form. -/
theorem wf_store (bs : List Byte) (m : Memory) (a : Nat) (h : m.wf f = true) : (m.store f a bs).wf f = true := by
  induction bs generalizing m a with
  | nil => exact h
  | cons b bs ih => exact ih _ _ (wf_set f m a b h)

/-! ## What an unwritten address reads as -/

theorem unlisted_font (a : Nat) (h : a < Config.fontSize) : unlisted f a = f[a] := by
  simp [unlisted, h]

theorem unlisted_high (a : Nat) (h : Config.fontSize ≤ a) : unlisted f a = 0 := by
  simp [unlisted, Nat.not_lt.mpr h]

end Sys2Proof.Machine.Memory
end

