-- ==== Sys2Proof/Laws/State.lean ====
section
/-! SUPPORT. One lemma per field per named update of State: what the update leaves and what it writes. -/

namespace Sys2Proof.Machine.State

open Sys2Proof

variable (s : State)

/-! ## setReg -/

@[simp] theorem setReg_v (x : Reg) (b : Byte) : (s.setReg x b).v = s.v.set x.toNat b x.isLt := rfl
@[simp] theorem setReg_i (x : Reg) (b : Byte) : (s.setReg x b).i = s.i := rfl
@[simp] theorem setReg_pc (x : Reg) (b : Byte) : (s.setReg x b).pc = s.pc := rfl
@[simp] theorem setReg_dt (x : Reg) (b : Byte) : (s.setReg x b).dt = s.dt := rfl
@[simp] theorem setReg_st (x : Reg) (b : Byte) : (s.setReg x b).st = s.st := rfl
@[simp] theorem setReg_stack (x : Reg) (b : Byte) : (s.setReg x b).stack = s.stack := rfl
@[simp] theorem setReg_sp (x : Reg) (b : Byte) : (s.setReg x b).sp = s.sp := rfl
@[simp] theorem setReg_mem (x : Reg) (b : Byte) : (s.setReg x b).mem = s.mem := rfl
@[simp] theorem setReg_screen (x : Reg) (b : Byte) : (s.setReg x b).screen = s.screen := rfl
@[simp] theorem setReg_keys (x : Reg) (b : Byte) : (s.setReg x b).keys = s.keys := rfl
@[simp] theorem setReg_status (x : Reg) (b : Byte) : (s.setReg x b).status = s.status := rfl
@[simp] theorem setReg_waitReg (x : Reg) (b : Byte) : (s.setReg x b).waitReg = s.waitReg := rfl
@[simp] theorem setReg_fcause (x : Reg) (b : Byte) : (s.setReg x b).fcause = s.fcause := rfl
@[simp] theorem setReg_fpc (x : Reg) (b : Byte) : (s.setReg x b).fpc = s.fpc := rfl
@[simp] theorem setReg_fop (x : Reg) (b : Byte) : (s.setReg x b).fop = s.fop := rfl
@[simp] theorem setReg_finfo (x : Reg) (b : Byte) : (s.setReg x b).finfo = s.finfo := rfl
@[simp] theorem setReg_draws (x : Reg) (b : Byte) : (s.setReg x b).draws = s.draws := rfl
@[simp] theorem setReg_font (x : Reg) (b : Byte) : (s.setReg x b).font = s.font := rfl
@[simp] theorem setReg_schedule (x : Reg) (b : Byte) : (s.setReg x b).schedule = s.schedule := rfl

/-! ## setPc -/

@[simp] theorem setPc_v (p : Word) : (s.setPc p).v = s.v := rfl
@[simp] theorem setPc_i (p : Word) : (s.setPc p).i = s.i := rfl
@[simp] theorem setPc_pc (p : Word) : (s.setPc p).pc = p := rfl
@[simp] theorem setPc_dt (p : Word) : (s.setPc p).dt = s.dt := rfl
@[simp] theorem setPc_st (p : Word) : (s.setPc p).st = s.st := rfl
@[simp] theorem setPc_stack (p : Word) : (s.setPc p).stack = s.stack := rfl
@[simp] theorem setPc_sp (p : Word) : (s.setPc p).sp = s.sp := rfl
@[simp] theorem setPc_mem (p : Word) : (s.setPc p).mem = s.mem := rfl
@[simp] theorem setPc_screen (p : Word) : (s.setPc p).screen = s.screen := rfl
@[simp] theorem setPc_keys (p : Word) : (s.setPc p).keys = s.keys := rfl
@[simp] theorem setPc_status (p : Word) : (s.setPc p).status = s.status := rfl
@[simp] theorem setPc_waitReg (p : Word) : (s.setPc p).waitReg = s.waitReg := rfl
@[simp] theorem setPc_fcause (p : Word) : (s.setPc p).fcause = s.fcause := rfl
@[simp] theorem setPc_fpc (p : Word) : (s.setPc p).fpc = s.fpc := rfl
@[simp] theorem setPc_fop (p : Word) : (s.setPc p).fop = s.fop := rfl
@[simp] theorem setPc_finfo (p : Word) : (s.setPc p).finfo = s.finfo := rfl
@[simp] theorem setPc_draws (p : Word) : (s.setPc p).draws = s.draws := rfl
@[simp] theorem setPc_font (p : Word) : (s.setPc p).font = s.font := rfl
@[simp] theorem setPc_schedule (p : Word) : (s.setPc p).schedule = s.schedule := rfl

/-! ## setI -/

@[simp] theorem setI_v (w : Word) : (s.setI w).v = s.v := rfl
@[simp] theorem setI_i (w : Word) : (s.setI w).i = w := rfl
@[simp] theorem setI_pc (w : Word) : (s.setI w).pc = s.pc := rfl
@[simp] theorem setI_dt (w : Word) : (s.setI w).dt = s.dt := rfl
@[simp] theorem setI_st (w : Word) : (s.setI w).st = s.st := rfl
@[simp] theorem setI_stack (w : Word) : (s.setI w).stack = s.stack := rfl
@[simp] theorem setI_sp (w : Word) : (s.setI w).sp = s.sp := rfl
@[simp] theorem setI_mem (w : Word) : (s.setI w).mem = s.mem := rfl
@[simp] theorem setI_screen (w : Word) : (s.setI w).screen = s.screen := rfl
@[simp] theorem setI_keys (w : Word) : (s.setI w).keys = s.keys := rfl
@[simp] theorem setI_status (w : Word) : (s.setI w).status = s.status := rfl
@[simp] theorem setI_waitReg (w : Word) : (s.setI w).waitReg = s.waitReg := rfl
@[simp] theorem setI_fcause (w : Word) : (s.setI w).fcause = s.fcause := rfl
@[simp] theorem setI_fpc (w : Word) : (s.setI w).fpc = s.fpc := rfl
@[simp] theorem setI_fop (w : Word) : (s.setI w).fop = s.fop := rfl
@[simp] theorem setI_finfo (w : Word) : (s.setI w).finfo = s.finfo := rfl
@[simp] theorem setI_draws (w : Word) : (s.setI w).draws = s.draws := rfl
@[simp] theorem setI_font (w : Word) : (s.setI w).font = s.font := rfl
@[simp] theorem setI_schedule (w : Word) : (s.setI w).schedule = s.schedule := rfl

/-! ## setDt -/

@[simp] theorem setDt_v (b : Byte) : (s.setDt b).v = s.v := rfl
@[simp] theorem setDt_i (b : Byte) : (s.setDt b).i = s.i := rfl
@[simp] theorem setDt_pc (b : Byte) : (s.setDt b).pc = s.pc := rfl
@[simp] theorem setDt_dt (b : Byte) : (s.setDt b).dt = b := rfl
@[simp] theorem setDt_st (b : Byte) : (s.setDt b).st = s.st := rfl
@[simp] theorem setDt_stack (b : Byte) : (s.setDt b).stack = s.stack := rfl
@[simp] theorem setDt_sp (b : Byte) : (s.setDt b).sp = s.sp := rfl
@[simp] theorem setDt_mem (b : Byte) : (s.setDt b).mem = s.mem := rfl
@[simp] theorem setDt_screen (b : Byte) : (s.setDt b).screen = s.screen := rfl
@[simp] theorem setDt_keys (b : Byte) : (s.setDt b).keys = s.keys := rfl
@[simp] theorem setDt_status (b : Byte) : (s.setDt b).status = s.status := rfl
@[simp] theorem setDt_waitReg (b : Byte) : (s.setDt b).waitReg = s.waitReg := rfl
@[simp] theorem setDt_fcause (b : Byte) : (s.setDt b).fcause = s.fcause := rfl
@[simp] theorem setDt_fpc (b : Byte) : (s.setDt b).fpc = s.fpc := rfl
@[simp] theorem setDt_fop (b : Byte) : (s.setDt b).fop = s.fop := rfl
@[simp] theorem setDt_finfo (b : Byte) : (s.setDt b).finfo = s.finfo := rfl
@[simp] theorem setDt_draws (b : Byte) : (s.setDt b).draws = s.draws := rfl
@[simp] theorem setDt_font (b : Byte) : (s.setDt b).font = s.font := rfl
@[simp] theorem setDt_schedule (b : Byte) : (s.setDt b).schedule = s.schedule := rfl

/-! ## setSt -/

@[simp] theorem setSt_v (b : Byte) : (s.setSt b).v = s.v := rfl
@[simp] theorem setSt_i (b : Byte) : (s.setSt b).i = s.i := rfl
@[simp] theorem setSt_pc (b : Byte) : (s.setSt b).pc = s.pc := rfl
@[simp] theorem setSt_dt (b : Byte) : (s.setSt b).dt = s.dt := rfl
@[simp] theorem setSt_st (b : Byte) : (s.setSt b).st = b := rfl
@[simp] theorem setSt_stack (b : Byte) : (s.setSt b).stack = s.stack := rfl
@[simp] theorem setSt_sp (b : Byte) : (s.setSt b).sp = s.sp := rfl
@[simp] theorem setSt_mem (b : Byte) : (s.setSt b).mem = s.mem := rfl
@[simp] theorem setSt_screen (b : Byte) : (s.setSt b).screen = s.screen := rfl
@[simp] theorem setSt_keys (b : Byte) : (s.setSt b).keys = s.keys := rfl
@[simp] theorem setSt_status (b : Byte) : (s.setSt b).status = s.status := rfl
@[simp] theorem setSt_waitReg (b : Byte) : (s.setSt b).waitReg = s.waitReg := rfl
@[simp] theorem setSt_fcause (b : Byte) : (s.setSt b).fcause = s.fcause := rfl
@[simp] theorem setSt_fpc (b : Byte) : (s.setSt b).fpc = s.fpc := rfl
@[simp] theorem setSt_fop (b : Byte) : (s.setSt b).fop = s.fop := rfl
@[simp] theorem setSt_finfo (b : Byte) : (s.setSt b).finfo = s.finfo := rfl
@[simp] theorem setSt_draws (b : Byte) : (s.setSt b).draws = s.draws := rfl
@[simp] theorem setSt_font (b : Byte) : (s.setSt b).font = s.font := rfl
@[simp] theorem setSt_schedule (b : Byte) : (s.setSt b).schedule = s.schedule := rfl

/-! ## setMem -/

@[simp] theorem setMem_v (m : Memory) : (s.setMem m).v = s.v := rfl
@[simp] theorem setMem_i (m : Memory) : (s.setMem m).i = s.i := rfl
@[simp] theorem setMem_pc (m : Memory) : (s.setMem m).pc = s.pc := rfl
@[simp] theorem setMem_dt (m : Memory) : (s.setMem m).dt = s.dt := rfl
@[simp] theorem setMem_st (m : Memory) : (s.setMem m).st = s.st := rfl
@[simp] theorem setMem_stack (m : Memory) : (s.setMem m).stack = s.stack := rfl
@[simp] theorem setMem_sp (m : Memory) : (s.setMem m).sp = s.sp := rfl
@[simp] theorem setMem_mem (m : Memory) : (s.setMem m).mem = m := rfl
@[simp] theorem setMem_screen (m : Memory) : (s.setMem m).screen = s.screen := rfl
@[simp] theorem setMem_keys (m : Memory) : (s.setMem m).keys = s.keys := rfl
@[simp] theorem setMem_status (m : Memory) : (s.setMem m).status = s.status := rfl
@[simp] theorem setMem_waitReg (m : Memory) : (s.setMem m).waitReg = s.waitReg := rfl
@[simp] theorem setMem_fcause (m : Memory) : (s.setMem m).fcause = s.fcause := rfl
@[simp] theorem setMem_fpc (m : Memory) : (s.setMem m).fpc = s.fpc := rfl
@[simp] theorem setMem_fop (m : Memory) : (s.setMem m).fop = s.fop := rfl
@[simp] theorem setMem_finfo (m : Memory) : (s.setMem m).finfo = s.finfo := rfl
@[simp] theorem setMem_draws (m : Memory) : (s.setMem m).draws = s.draws := rfl
@[simp] theorem setMem_font (m : Memory) : (s.setMem m).font = s.font := rfl
@[simp] theorem setMem_schedule (m : Memory) : (s.setMem m).schedule = s.schedule := rfl

/-! ## setScreen -/

@[simp] theorem setScreen_v (sc : Screen) : (s.setScreen sc).v = s.v := rfl
@[simp] theorem setScreen_i (sc : Screen) : (s.setScreen sc).i = s.i := rfl
@[simp] theorem setScreen_pc (sc : Screen) : (s.setScreen sc).pc = s.pc := rfl
@[simp] theorem setScreen_dt (sc : Screen) : (s.setScreen sc).dt = s.dt := rfl
@[simp] theorem setScreen_st (sc : Screen) : (s.setScreen sc).st = s.st := rfl
@[simp] theorem setScreen_stack (sc : Screen) : (s.setScreen sc).stack = s.stack := rfl
@[simp] theorem setScreen_sp (sc : Screen) : (s.setScreen sc).sp = s.sp := rfl
@[simp] theorem setScreen_mem (sc : Screen) : (s.setScreen sc).mem = s.mem := rfl
@[simp] theorem setScreen_screen (sc : Screen) : (s.setScreen sc).screen = sc := rfl
@[simp] theorem setScreen_keys (sc : Screen) : (s.setScreen sc).keys = s.keys := rfl
@[simp] theorem setScreen_status (sc : Screen) : (s.setScreen sc).status = s.status := rfl
@[simp] theorem setScreen_waitReg (sc : Screen) : (s.setScreen sc).waitReg = s.waitReg := rfl
@[simp] theorem setScreen_fcause (sc : Screen) : (s.setScreen sc).fcause = s.fcause := rfl
@[simp] theorem setScreen_fpc (sc : Screen) : (s.setScreen sc).fpc = s.fpc := rfl
@[simp] theorem setScreen_fop (sc : Screen) : (s.setScreen sc).fop = s.fop := rfl
@[simp] theorem setScreen_finfo (sc : Screen) : (s.setScreen sc).finfo = s.finfo := rfl
@[simp] theorem setScreen_draws (sc : Screen) : (s.setScreen sc).draws = s.draws := rfl
@[simp] theorem setScreen_font (sc : Screen) : (s.setScreen sc).font = s.font := rfl
@[simp] theorem setScreen_schedule (sc : Screen) : (s.setScreen sc).schedule = s.schedule := rfl

/-! ## setKey -/

@[simp] theorem setKey_v (k : Key) (b : Bool) : (s.setKey k b).v = s.v := rfl
@[simp] theorem setKey_i (k : Key) (b : Bool) : (s.setKey k b).i = s.i := rfl
@[simp] theorem setKey_pc (k : Key) (b : Bool) : (s.setKey k b).pc = s.pc := rfl
@[simp] theorem setKey_dt (k : Key) (b : Bool) : (s.setKey k b).dt = s.dt := rfl
@[simp] theorem setKey_st (k : Key) (b : Bool) : (s.setKey k b).st = s.st := rfl
@[simp] theorem setKey_stack (k : Key) (b : Bool) : (s.setKey k b).stack = s.stack := rfl
@[simp] theorem setKey_sp (k : Key) (b : Bool) : (s.setKey k b).sp = s.sp := rfl
@[simp] theorem setKey_mem (k : Key) (b : Bool) : (s.setKey k b).mem = s.mem := rfl
@[simp] theorem setKey_screen (k : Key) (b : Bool) : (s.setKey k b).screen = s.screen := rfl
@[simp] theorem setKey_keys (k : Key) (b : Bool) : (s.setKey k b).keys = s.keys.set k.toNat b k.isLt := rfl
@[simp] theorem setKey_status (k : Key) (b : Bool) : (s.setKey k b).status = s.status := rfl
@[simp] theorem setKey_waitReg (k : Key) (b : Bool) : (s.setKey k b).waitReg = s.waitReg := rfl
@[simp] theorem setKey_fcause (k : Key) (b : Bool) : (s.setKey k b).fcause = s.fcause := rfl
@[simp] theorem setKey_fpc (k : Key) (b : Bool) : (s.setKey k b).fpc = s.fpc := rfl
@[simp] theorem setKey_fop (k : Key) (b : Bool) : (s.setKey k b).fop = s.fop := rfl
@[simp] theorem setKey_finfo (k : Key) (b : Bool) : (s.setKey k b).finfo = s.finfo := rfl
@[simp] theorem setKey_draws (k : Key) (b : Bool) : (s.setKey k b).draws = s.draws := rfl
@[simp] theorem setKey_font (k : Key) (b : Bool) : (s.setKey k b).font = s.font := rfl
@[simp] theorem setKey_schedule (k : Key) (b : Bool) : (s.setKey k b).schedule = s.schedule := rfl

/-! ## enterWait -/

@[simp] theorem enterWait_v (x : Reg) : (s.enterWait x).v = s.v := rfl
@[simp] theorem enterWait_i (x : Reg) : (s.enterWait x).i = s.i := rfl
@[simp] theorem enterWait_pc (x : Reg) : (s.enterWait x).pc = s.pc := rfl
@[simp] theorem enterWait_dt (x : Reg) : (s.enterWait x).dt = s.dt := rfl
@[simp] theorem enterWait_st (x : Reg) : (s.enterWait x).st = s.st := rfl
@[simp] theorem enterWait_stack (x : Reg) : (s.enterWait x).stack = s.stack := rfl
@[simp] theorem enterWait_sp (x : Reg) : (s.enterWait x).sp = s.sp := rfl
@[simp] theorem enterWait_mem (x : Reg) : (s.enterWait x).mem = s.mem := rfl
@[simp] theorem enterWait_screen (x : Reg) : (s.enterWait x).screen = s.screen := rfl
@[simp] theorem enterWait_keys (x : Reg) : (s.enterWait x).keys = s.keys := rfl
@[simp] theorem enterWait_status (x : Reg) : (s.enterWait x).status = .waitKey := rfl
@[simp] theorem enterWait_waitReg (x : Reg) : (s.enterWait x).waitReg = x := rfl
@[simp] theorem enterWait_fcause (x : Reg) : (s.enterWait x).fcause = s.fcause := rfl
@[simp] theorem enterWait_fpc (x : Reg) : (s.enterWait x).fpc = s.fpc := rfl
@[simp] theorem enterWait_fop (x : Reg) : (s.enterWait x).fop = s.fop := rfl
@[simp] theorem enterWait_finfo (x : Reg) : (s.enterWait x).finfo = s.finfo := rfl
@[simp] theorem enterWait_draws (x : Reg) : (s.enterWait x).draws = s.draws := rfl
@[simp] theorem enterWait_font (x : Reg) : (s.enterWait x).font = s.font := rfl
@[simp] theorem enterWait_schedule (x : Reg) : (s.enterWait x).schedule = s.schedule := rfl

/-! ## completeWait -/

@[simp] theorem completeWait_v (k : Key) : (s.completeWait k).v = s.v.set s.waitReg.toNat (k.setWidth 8) s.waitReg.isLt := rfl
@[simp] theorem completeWait_i (k : Key) : (s.completeWait k).i = s.i := rfl
@[simp] theorem completeWait_pc (k : Key) : (s.completeWait k).pc = s.pc := rfl
@[simp] theorem completeWait_dt (k : Key) : (s.completeWait k).dt = s.dt := rfl
@[simp] theorem completeWait_st (k : Key) : (s.completeWait k).st = s.st := rfl
@[simp] theorem completeWait_stack (k : Key) : (s.completeWait k).stack = s.stack := rfl
@[simp] theorem completeWait_sp (k : Key) : (s.completeWait k).sp = s.sp := rfl
@[simp] theorem completeWait_mem (k : Key) : (s.completeWait k).mem = s.mem := rfl
@[simp] theorem completeWait_screen (k : Key) : (s.completeWait k).screen = s.screen := rfl
@[simp] theorem completeWait_keys (k : Key) : (s.completeWait k).keys = s.keys := rfl
@[simp] theorem completeWait_status (k : Key) : (s.completeWait k).status = .run := rfl
@[simp] theorem completeWait_waitReg (k : Key) : (s.completeWait k).waitReg = s.waitReg := rfl
@[simp] theorem completeWait_fcause (k : Key) : (s.completeWait k).fcause = s.fcause := rfl
@[simp] theorem completeWait_fpc (k : Key) : (s.completeWait k).fpc = s.fpc := rfl
@[simp] theorem completeWait_fop (k : Key) : (s.completeWait k).fop = s.fop := rfl
@[simp] theorem completeWait_finfo (k : Key) : (s.completeWait k).finfo = s.finfo := rfl
@[simp] theorem completeWait_draws (k : Key) : (s.completeWait k).draws = s.draws := rfl
@[simp] theorem completeWait_font (k : Key) : (s.completeWait k).font = s.font := rfl
@[simp] theorem completeWait_schedule (k : Key) : (s.completeWait k).schedule = s.schedule := rfl

/-! ## raise -/

@[simp] theorem raise_v (c : FaultCause) (p o f : Word) : (s.raise c p o f).v = s.v := rfl
@[simp] theorem raise_i (c : FaultCause) (p o f : Word) : (s.raise c p o f).i = s.i := rfl
@[simp] theorem raise_pc (c : FaultCause) (p o f : Word) : (s.raise c p o f).pc = s.pc := rfl
@[simp] theorem raise_dt (c : FaultCause) (p o f : Word) : (s.raise c p o f).dt = s.dt := rfl
@[simp] theorem raise_st (c : FaultCause) (p o f : Word) : (s.raise c p o f).st = s.st := rfl
@[simp] theorem raise_stack (c : FaultCause) (p o f : Word) : (s.raise c p o f).stack = s.stack := rfl
@[simp] theorem raise_sp (c : FaultCause) (p o f : Word) : (s.raise c p o f).sp = s.sp := rfl
@[simp] theorem raise_mem (c : FaultCause) (p o f : Word) : (s.raise c p o f).mem = s.mem := rfl
@[simp] theorem raise_screen (c : FaultCause) (p o f : Word) : (s.raise c p o f).screen = s.screen := rfl
@[simp] theorem raise_keys (c : FaultCause) (p o f : Word) : (s.raise c p o f).keys = s.keys := rfl
@[simp] theorem raise_status (c : FaultCause) (p o f : Word) : (s.raise c p o f).status = .fault := rfl
@[simp] theorem raise_waitReg (c : FaultCause) (p o f : Word) : (s.raise c p o f).waitReg = s.waitReg := rfl
@[simp] theorem raise_fcause (c : FaultCause) (p o f : Word) : (s.raise c p o f).fcause = c := rfl
@[simp] theorem raise_fpc (c : FaultCause) (p o f : Word) : (s.raise c p o f).fpc = p := rfl
@[simp] theorem raise_fop (c : FaultCause) (p o f : Word) : (s.raise c p o f).fop = o := rfl
@[simp] theorem raise_finfo (c : FaultCause) (p o f : Word) : (s.raise c p o f).finfo = f := rfl
@[simp] theorem raise_draws (c : FaultCause) (p o f : Word) : (s.raise c p o f).draws = s.draws := rfl
@[simp] theorem raise_font (c : FaultCause) (p o f : Word) : (s.raise c p o f).font = s.font := rfl
@[simp] theorem raise_schedule (c : FaultCause) (p o f : Word) : (s.raise c p o f).schedule = s.schedule := rfl

/-! ## tookDraw -/

@[simp] theorem tookDraw_v : (s.tookDraw).v = s.v := rfl
@[simp] theorem tookDraw_i : (s.tookDraw).i = s.i := rfl
@[simp] theorem tookDraw_pc : (s.tookDraw).pc = s.pc := rfl
@[simp] theorem tookDraw_dt : (s.tookDraw).dt = s.dt := rfl
@[simp] theorem tookDraw_st : (s.tookDraw).st = s.st := rfl
@[simp] theorem tookDraw_stack : (s.tookDraw).stack = s.stack := rfl
@[simp] theorem tookDraw_sp : (s.tookDraw).sp = s.sp := rfl
@[simp] theorem tookDraw_mem : (s.tookDraw).mem = s.mem := rfl
@[simp] theorem tookDraw_screen : (s.tookDraw).screen = s.screen := rfl
@[simp] theorem tookDraw_keys : (s.tookDraw).keys = s.keys := rfl
@[simp] theorem tookDraw_status : (s.tookDraw).status = s.status := rfl
@[simp] theorem tookDraw_waitReg : (s.tookDraw).waitReg = s.waitReg := rfl
@[simp] theorem tookDraw_fcause : (s.tookDraw).fcause = s.fcause := rfl
@[simp] theorem tookDraw_fpc : (s.tookDraw).fpc = s.fpc := rfl
@[simp] theorem tookDraw_fop : (s.tookDraw).fop = s.fop := rfl
@[simp] theorem tookDraw_finfo : (s.tookDraw).finfo = s.finfo := rfl
@[simp] theorem tookDraw_draws : (s.tookDraw).draws = s.draws + 1 := rfl
@[simp] theorem tookDraw_font : (s.tookDraw).font = s.font := rfl
@[simp] theorem tookDraw_schedule : (s.tookDraw).schedule = s.schedule := rfl

/-! ## setSchedule -/

@[simp] theorem setSchedule_v (r : List Turn) : (s.setSchedule r).v = s.v := rfl
@[simp] theorem setSchedule_i (r : List Turn) : (s.setSchedule r).i = s.i := rfl
@[simp] theorem setSchedule_pc (r : List Turn) : (s.setSchedule r).pc = s.pc := rfl
@[simp] theorem setSchedule_dt (r : List Turn) : (s.setSchedule r).dt = s.dt := rfl
@[simp] theorem setSchedule_st (r : List Turn) : (s.setSchedule r).st = s.st := rfl
@[simp] theorem setSchedule_stack (r : List Turn) : (s.setSchedule r).stack = s.stack := rfl
@[simp] theorem setSchedule_sp (r : List Turn) : (s.setSchedule r).sp = s.sp := rfl
@[simp] theorem setSchedule_mem (r : List Turn) : (s.setSchedule r).mem = s.mem := rfl
@[simp] theorem setSchedule_screen (r : List Turn) : (s.setSchedule r).screen = s.screen := rfl
@[simp] theorem setSchedule_keys (r : List Turn) : (s.setSchedule r).keys = s.keys := rfl
@[simp] theorem setSchedule_status (r : List Turn) : (s.setSchedule r).status = s.status := rfl
@[simp] theorem setSchedule_waitReg (r : List Turn) : (s.setSchedule r).waitReg = s.waitReg := rfl
@[simp] theorem setSchedule_fcause (r : List Turn) : (s.setSchedule r).fcause = s.fcause := rfl
@[simp] theorem setSchedule_fpc (r : List Turn) : (s.setSchedule r).fpc = s.fpc := rfl
@[simp] theorem setSchedule_fop (r : List Turn) : (s.setSchedule r).fop = s.fop := rfl
@[simp] theorem setSchedule_finfo (r : List Turn) : (s.setSchedule r).finfo = s.finfo := rfl
@[simp] theorem setSchedule_draws (r : List Turn) : (s.setSchedule r).draws = s.draws := rfl
@[simp] theorem setSchedule_font (r : List Turn) : (s.setSchedule r).font = s.font := rfl
@[simp] theorem setSchedule_schedule (r : List Turn) : (s.setSchedule r).schedule = r := rfl

/-! ## setFlagThenReg -/

@[simp] theorem setFlagThenReg_v (f : Byte) (x : Reg) (b : Byte) : (s.setFlagThenReg f x b).v = (s.v.set vf.toNat f vf.isLt).set x.toNat b x.isLt := rfl
@[simp] theorem setFlagThenReg_i (f : Byte) (x : Reg) (b : Byte) : (s.setFlagThenReg f x b).i = s.i := rfl
@[simp] theorem setFlagThenReg_pc (f : Byte) (x : Reg) (b : Byte) : (s.setFlagThenReg f x b).pc = s.pc := rfl
@[simp] theorem setFlagThenReg_dt (f : Byte) (x : Reg) (b : Byte) : (s.setFlagThenReg f x b).dt = s.dt := rfl
@[simp] theorem setFlagThenReg_st (f : Byte) (x : Reg) (b : Byte) : (s.setFlagThenReg f x b).st = s.st := rfl
@[simp] theorem setFlagThenReg_stack (f : Byte) (x : Reg) (b : Byte) : (s.setFlagThenReg f x b).stack = s.stack := rfl
@[simp] theorem setFlagThenReg_sp (f : Byte) (x : Reg) (b : Byte) : (s.setFlagThenReg f x b).sp = s.sp := rfl
@[simp] theorem setFlagThenReg_mem (f : Byte) (x : Reg) (b : Byte) : (s.setFlagThenReg f x b).mem = s.mem := rfl
@[simp] theorem setFlagThenReg_screen (f : Byte) (x : Reg) (b : Byte) : (s.setFlagThenReg f x b).screen = s.screen := rfl
@[simp] theorem setFlagThenReg_keys (f : Byte) (x : Reg) (b : Byte) : (s.setFlagThenReg f x b).keys = s.keys := rfl
@[simp] theorem setFlagThenReg_status (f : Byte) (x : Reg) (b : Byte) : (s.setFlagThenReg f x b).status = s.status := rfl
@[simp] theorem setFlagThenReg_waitReg (f : Byte) (x : Reg) (b : Byte) : (s.setFlagThenReg f x b).waitReg = s.waitReg := rfl
@[simp] theorem setFlagThenReg_fcause (f : Byte) (x : Reg) (b : Byte) : (s.setFlagThenReg f x b).fcause = s.fcause := rfl
@[simp] theorem setFlagThenReg_fpc (f : Byte) (x : Reg) (b : Byte) : (s.setFlagThenReg f x b).fpc = s.fpc := rfl
@[simp] theorem setFlagThenReg_fop (f : Byte) (x : Reg) (b : Byte) : (s.setFlagThenReg f x b).fop = s.fop := rfl
@[simp] theorem setFlagThenReg_finfo (f : Byte) (x : Reg) (b : Byte) : (s.setFlagThenReg f x b).finfo = s.finfo := rfl
@[simp] theorem setFlagThenReg_draws (f : Byte) (x : Reg) (b : Byte) : (s.setFlagThenReg f x b).draws = s.draws := rfl
@[simp] theorem setFlagThenReg_font (f : Byte) (x : Reg) (b : Byte) : (s.setFlagThenReg f x b).font = s.font := rfl
@[simp] theorem setFlagThenReg_schedule (f : Byte) (x : Reg) (b : Byte) : (s.setFlagThenReg f x b).schedule = s.schedule := rfl

/-! ## skip -/

@[simp] theorem skip_v : (s.skip).v = s.v := rfl
@[simp] theorem skip_i : (s.skip).i = s.i := rfl
@[simp] theorem skip_pc : (s.skip).pc = s.pc + 2 := rfl
@[simp] theorem skip_dt : (s.skip).dt = s.dt := rfl
@[simp] theorem skip_st : (s.skip).st = s.st := rfl
@[simp] theorem skip_stack : (s.skip).stack = s.stack := rfl
@[simp] theorem skip_sp : (s.skip).sp = s.sp := rfl
@[simp] theorem skip_mem : (s.skip).mem = s.mem := rfl
@[simp] theorem skip_screen : (s.skip).screen = s.screen := rfl
@[simp] theorem skip_keys : (s.skip).keys = s.keys := rfl
@[simp] theorem skip_status : (s.skip).status = s.status := rfl
@[simp] theorem skip_waitReg : (s.skip).waitReg = s.waitReg := rfl
@[simp] theorem skip_fcause : (s.skip).fcause = s.fcause := rfl
@[simp] theorem skip_fpc : (s.skip).fpc = s.fpc := rfl
@[simp] theorem skip_fop : (s.skip).fop = s.fop := rfl
@[simp] theorem skip_finfo : (s.skip).finfo = s.finfo := rfl
@[simp] theorem skip_draws : (s.skip).draws = s.draws := rfl
@[simp] theorem skip_font : (s.skip).font = s.font := rfl
@[simp] theorem skip_schedule : (s.skip).schedule = s.schedule := rfl

/-! ## afterFetch -/

@[simp] theorem afterFetch_v : (s.afterFetch).v = s.v := rfl
@[simp] theorem afterFetch_i : (s.afterFetch).i = s.i := rfl
@[simp] theorem afterFetch_pc : (s.afterFetch).pc = s.pc + 2 := rfl
@[simp] theorem afterFetch_dt : (s.afterFetch).dt = s.dt := rfl
@[simp] theorem afterFetch_st : (s.afterFetch).st = s.st := rfl
@[simp] theorem afterFetch_stack : (s.afterFetch).stack = s.stack := rfl
@[simp] theorem afterFetch_sp : (s.afterFetch).sp = s.sp := rfl
@[simp] theorem afterFetch_mem : (s.afterFetch).mem = s.mem := rfl
@[simp] theorem afterFetch_screen : (s.afterFetch).screen = s.screen := rfl
@[simp] theorem afterFetch_keys : (s.afterFetch).keys = s.keys := rfl
@[simp] theorem afterFetch_status : (s.afterFetch).status = s.status := rfl
@[simp] theorem afterFetch_waitReg : (s.afterFetch).waitReg = s.waitReg := rfl
@[simp] theorem afterFetch_fcause : (s.afterFetch).fcause = s.fcause := rfl
@[simp] theorem afterFetch_fpc : (s.afterFetch).fpc = s.fpc := rfl
@[simp] theorem afterFetch_fop : (s.afterFetch).fop = s.fop := rfl
@[simp] theorem afterFetch_finfo : (s.afterFetch).finfo = s.finfo := rfl
@[simp] theorem afterFetch_draws : (s.afterFetch).draws = s.draws := rfl
@[simp] theorem afterFetch_font : (s.afterFetch).font = s.font := rfl
@[simp] theorem afterFetch_schedule : (s.afterFetch).schedule = s.schedule := rfl

/-! ## raiseExec -/

@[simp] theorem raiseExec_v (c : FaultCause) (j : Instr) (n : Nat) : (s.raiseExec c j n).v = s.v := rfl
@[simp] theorem raiseExec_i (c : FaultCause) (j : Instr) (n : Nat) : (s.raiseExec c j n).i = s.i := rfl
@[simp] theorem raiseExec_pc (c : FaultCause) (j : Instr) (n : Nat) : (s.raiseExec c j n).pc = s.pc := rfl
@[simp] theorem raiseExec_dt (c : FaultCause) (j : Instr) (n : Nat) : (s.raiseExec c j n).dt = s.dt := rfl
@[simp] theorem raiseExec_st (c : FaultCause) (j : Instr) (n : Nat) : (s.raiseExec c j n).st = s.st := rfl
@[simp] theorem raiseExec_stack (c : FaultCause) (j : Instr) (n : Nat) : (s.raiseExec c j n).stack = s.stack := rfl
@[simp] theorem raiseExec_sp (c : FaultCause) (j : Instr) (n : Nat) : (s.raiseExec c j n).sp = s.sp := rfl
@[simp] theorem raiseExec_mem (c : FaultCause) (j : Instr) (n : Nat) : (s.raiseExec c j n).mem = s.mem := rfl
@[simp] theorem raiseExec_screen (c : FaultCause) (j : Instr) (n : Nat) : (s.raiseExec c j n).screen = s.screen := rfl
@[simp] theorem raiseExec_keys (c : FaultCause) (j : Instr) (n : Nat) : (s.raiseExec c j n).keys = s.keys := rfl
@[simp] theorem raiseExec_status (c : FaultCause) (j : Instr) (n : Nat) : (s.raiseExec c j n).status = .fault := rfl
@[simp] theorem raiseExec_waitReg (c : FaultCause) (j : Instr) (n : Nat) : (s.raiseExec c j n).waitReg = s.waitReg := rfl
@[simp] theorem raiseExec_fcause (c : FaultCause) (j : Instr) (n : Nat) : (s.raiseExec c j n).fcause = c := rfl
@[simp] theorem raiseExec_fpc (c : FaultCause) (j : Instr) (n : Nat) : (s.raiseExec c j n).fpc = s.pc - 2 := rfl
@[simp] theorem raiseExec_fop (c : FaultCause) (j : Instr) (n : Nat) : (s.raiseExec c j n).fop = encode j := rfl
@[simp] theorem raiseExec_finfo (c : FaultCause) (j : Instr) (n : Nat) : (s.raiseExec c j n).finfo = BitVec.ofNat 16 n := rfl
@[simp] theorem raiseExec_draws (c : FaultCause) (j : Instr) (n : Nat) : (s.raiseExec c j n).draws = s.draws := rfl
@[simp] theorem raiseExec_font (c : FaultCause) (j : Instr) (n : Nat) : (s.raiseExec c j n).font = s.font := rfl
@[simp] theorem raiseExec_schedule (c : FaultCause) (j : Instr) (n : Nat) : (s.raiseExec c j n).schedule = s.schedule := rfl

/-! ## raiseFetch -/

@[simp] theorem raiseFetch_v : (s.raiseFetch).v = s.v := rfl
@[simp] theorem raiseFetch_i : (s.raiseFetch).i = s.i := rfl
@[simp] theorem raiseFetch_pc : (s.raiseFetch).pc = s.pc := rfl
@[simp] theorem raiseFetch_dt : (s.raiseFetch).dt = s.dt := rfl
@[simp] theorem raiseFetch_st : (s.raiseFetch).st = s.st := rfl
@[simp] theorem raiseFetch_stack : (s.raiseFetch).stack = s.stack := rfl
@[simp] theorem raiseFetch_sp : (s.raiseFetch).sp = s.sp := rfl
@[simp] theorem raiseFetch_mem : (s.raiseFetch).mem = s.mem := rfl
@[simp] theorem raiseFetch_screen : (s.raiseFetch).screen = s.screen := rfl
@[simp] theorem raiseFetch_keys : (s.raiseFetch).keys = s.keys := rfl
@[simp] theorem raiseFetch_status : (s.raiseFetch).status = .fault := rfl
@[simp] theorem raiseFetch_waitReg : (s.raiseFetch).waitReg = s.waitReg := rfl
@[simp] theorem raiseFetch_fcause : (s.raiseFetch).fcause = .fetchBounds := rfl
@[simp] theorem raiseFetch_fpc : (s.raiseFetch).fpc = s.pc := rfl
@[simp] theorem raiseFetch_fop : (s.raiseFetch).fop = 0 := rfl
@[simp] theorem raiseFetch_finfo : (s.raiseFetch).finfo = s.pc := rfl
@[simp] theorem raiseFetch_draws : (s.raiseFetch).draws = s.draws := rfl
@[simp] theorem raiseFetch_font : (s.raiseFetch).font = s.font := rfl
@[simp] theorem raiseFetch_schedule : (s.raiseFetch).schedule = s.schedule := rfl

/-! ## raiseLoad -/

@[simp] theorem raiseLoad_v (n : Nat) : (s.raiseLoad n).v = s.v := rfl
@[simp] theorem raiseLoad_i (n : Nat) : (s.raiseLoad n).i = s.i := rfl
@[simp] theorem raiseLoad_pc (n : Nat) : (s.raiseLoad n).pc = s.pc := rfl
@[simp] theorem raiseLoad_dt (n : Nat) : (s.raiseLoad n).dt = s.dt := rfl
@[simp] theorem raiseLoad_st (n : Nat) : (s.raiseLoad n).st = s.st := rfl
@[simp] theorem raiseLoad_stack (n : Nat) : (s.raiseLoad n).stack = s.stack := rfl
@[simp] theorem raiseLoad_sp (n : Nat) : (s.raiseLoad n).sp = s.sp := rfl
@[simp] theorem raiseLoad_mem (n : Nat) : (s.raiseLoad n).mem = s.mem := rfl
@[simp] theorem raiseLoad_screen (n : Nat) : (s.raiseLoad n).screen = s.screen := rfl
@[simp] theorem raiseLoad_keys (n : Nat) : (s.raiseLoad n).keys = s.keys := rfl
@[simp] theorem raiseLoad_status (n : Nat) : (s.raiseLoad n).status = .fault := rfl
@[simp] theorem raiseLoad_waitReg (n : Nat) : (s.raiseLoad n).waitReg = s.waitReg := rfl
@[simp] theorem raiseLoad_fcause (n : Nat) : (s.raiseLoad n).fcause = .loadSize := rfl
@[simp] theorem raiseLoad_fpc (n : Nat) : (s.raiseLoad n).fpc = 0 := rfl
@[simp] theorem raiseLoad_fop (n : Nat) : (s.raiseLoad n).fop = 0 := rfl
@[simp] theorem raiseLoad_finfo (n : Nat) : (s.raiseLoad n).finfo = BitVec.ofNat 16 n := rfl
@[simp] theorem raiseLoad_draws (n : Nat) : (s.raiseLoad n).draws = s.draws := rfl
@[simp] theorem raiseLoad_font (n : Nat) : (s.raiseLoad n).font = s.font := rfl
@[simp] theorem raiseLoad_schedule (n : Nat) : (s.raiseLoad n).schedule = s.schedule := rfl

/-! ## loadRegs -/

@[simp] theorem loadRegs_i (x : Reg) : (s.loadRegs x).i = s.i := rfl
@[simp] theorem loadRegs_pc (x : Reg) : (s.loadRegs x).pc = s.pc := rfl
@[simp] theorem loadRegs_dt (x : Reg) : (s.loadRegs x).dt = s.dt := rfl
@[simp] theorem loadRegs_st (x : Reg) : (s.loadRegs x).st = s.st := rfl
@[simp] theorem loadRegs_stack (x : Reg) : (s.loadRegs x).stack = s.stack := rfl
@[simp] theorem loadRegs_sp (x : Reg) : (s.loadRegs x).sp = s.sp := rfl
@[simp] theorem loadRegs_mem (x : Reg) : (s.loadRegs x).mem = s.mem := rfl
@[simp] theorem loadRegs_screen (x : Reg) : (s.loadRegs x).screen = s.screen := rfl
@[simp] theorem loadRegs_keys (x : Reg) : (s.loadRegs x).keys = s.keys := rfl
@[simp] theorem loadRegs_status (x : Reg) : (s.loadRegs x).status = s.status := rfl
@[simp] theorem loadRegs_waitReg (x : Reg) : (s.loadRegs x).waitReg = s.waitReg := rfl
@[simp] theorem loadRegs_fcause (x : Reg) : (s.loadRegs x).fcause = s.fcause := rfl
@[simp] theorem loadRegs_fpc (x : Reg) : (s.loadRegs x).fpc = s.fpc := rfl
@[simp] theorem loadRegs_fop (x : Reg) : (s.loadRegs x).fop = s.fop := rfl
@[simp] theorem loadRegs_finfo (x : Reg) : (s.loadRegs x).finfo = s.finfo := rfl
@[simp] theorem loadRegs_draws (x : Reg) : (s.loadRegs x).draws = s.draws := rfl
@[simp] theorem loadRegs_font (x : Reg) : (s.loadRegs x).font = s.font := rfl
@[simp] theorem loadRegs_schedule (x : Reg) : (s.loadRegs x).schedule = s.schedule := rfl

/-! ## storeBytes -/

@[simp] theorem storeBytes_v (a : Nat) (bs : List Byte) : (s.storeBytes a bs).v = s.v := rfl
@[simp] theorem storeBytes_i (a : Nat) (bs : List Byte) : (s.storeBytes a bs).i = s.i := rfl
@[simp] theorem storeBytes_pc (a : Nat) (bs : List Byte) : (s.storeBytes a bs).pc = s.pc := rfl
@[simp] theorem storeBytes_dt (a : Nat) (bs : List Byte) : (s.storeBytes a bs).dt = s.dt := rfl
@[simp] theorem storeBytes_st (a : Nat) (bs : List Byte) : (s.storeBytes a bs).st = s.st := rfl
@[simp] theorem storeBytes_stack (a : Nat) (bs : List Byte) : (s.storeBytes a bs).stack = s.stack := rfl
@[simp] theorem storeBytes_sp (a : Nat) (bs : List Byte) : (s.storeBytes a bs).sp = s.sp := rfl
@[simp] theorem storeBytes_mem (a : Nat) (bs : List Byte) : (s.storeBytes a bs).mem = s.mem.store s.font a bs := rfl
@[simp] theorem storeBytes_screen (a : Nat) (bs : List Byte) : (s.storeBytes a bs).screen = s.screen := rfl
@[simp] theorem storeBytes_keys (a : Nat) (bs : List Byte) : (s.storeBytes a bs).keys = s.keys := rfl
@[simp] theorem storeBytes_status (a : Nat) (bs : List Byte) : (s.storeBytes a bs).status = s.status := rfl
@[simp] theorem storeBytes_waitReg (a : Nat) (bs : List Byte) : (s.storeBytes a bs).waitReg = s.waitReg := rfl
@[simp] theorem storeBytes_fcause (a : Nat) (bs : List Byte) : (s.storeBytes a bs).fcause = s.fcause := rfl
@[simp] theorem storeBytes_fpc (a : Nat) (bs : List Byte) : (s.storeBytes a bs).fpc = s.fpc := rfl
@[simp] theorem storeBytes_fop (a : Nat) (bs : List Byte) : (s.storeBytes a bs).fop = s.fop := rfl
@[simp] theorem storeBytes_finfo (a : Nat) (bs : List Byte) : (s.storeBytes a bs).finfo = s.finfo := rfl
@[simp] theorem storeBytes_font (a : Nat) (bs : List Byte) : (s.storeBytes a bs).font = s.font := rfl
@[simp] theorem storeBytes_draws (a : Nat) (bs : List Byte) : (s.storeBytes a bs).draws = s.draws := rfl
@[simp] theorem storeBytes_schedule (a : Nat) (bs : List Byte) : (s.storeBytes a bs).schedule = s.schedule := rfl

/-! ## resetWith -/

@[simp] theorem resetWith_v (f : Config.Font) : (resetWith f).v = Vector.replicate 16 0 := rfl
@[simp] theorem resetWith_i (f : Config.Font) : (resetWith f).i = 0 := rfl
@[simp] theorem resetWith_pc (f : Config.Font) : (resetWith f).pc = 0 := rfl
@[simp] theorem resetWith_dt (f : Config.Font) : (resetWith f).dt = 0 := rfl
@[simp] theorem resetWith_st (f : Config.Font) : (resetWith f).st = 0 := rfl
@[simp] theorem resetWith_stack (f : Config.Font) : (resetWith f).stack = Vector.replicate 16 0 := rfl
@[simp] theorem resetWith_sp (f : Config.Font) : (resetWith f).sp = 0 := rfl
@[simp] theorem resetWith_mem (f : Config.Font) : (resetWith f).mem = [] := rfl
@[simp] theorem resetWith_screen (f : Config.Font) : (resetWith f).screen = Screen.blank := rfl
@[simp] theorem resetWith_keys (f : Config.Font) : (resetWith f).keys = Vector.replicate 16 false := rfl
@[simp] theorem resetWith_status (f : Config.Font) : (resetWith f).status = .run := rfl
@[simp] theorem resetWith_waitReg (f : Config.Font) : (resetWith f).waitReg = 0 := rfl
@[simp] theorem resetWith_fcause (f : Config.Font) : (resetWith f).fcause = .none := rfl
@[simp] theorem resetWith_fpc (f : Config.Font) : (resetWith f).fpc = 0 := rfl
@[simp] theorem resetWith_fop (f : Config.Font) : (resetWith f).fop = 0 := rfl
@[simp] theorem resetWith_finfo (f : Config.Font) : (resetWith f).finfo = 0 := rfl
@[simp] theorem resetWith_font (f : Config.Font) : (resetWith f).font = f := rfl
@[simp] theorem resetWith_draws (f : Config.Font) : (resetWith f).draws = 0 := rfl
@[simp] theorem resetWith_schedule (f : Config.Font) : (resetWith f).schedule = [] := rfl

/-! ## skipIf: one of two states -/

theorem skipIf_true : s.skipIf true = s.skip := rfl
theorem skipIf_false : s.skipIf false = s := rfl

/-- What a conditional skip can do: PC moves 2 further or not, and nothing else changes. -/
theorem skipIf_eq (c : Bool) : s.skipIf c = s.setPc (if c then s.pc + 2 else s.pc) := by
  cases c <;> rfl

end Sys2Proof.Machine.State
end

