-- ==== Sys2Proof/Laws/Ops.lean ====
section
/-! SUPPORT. What each shared operation can do, once each: registers, the stack, the data check, the fetch, the screen. -/

namespace Sys2Proof.Machine

open Sys2Proof

namespace State

/-! ## Registers -/

theorem reg_of_v {s t : State} (h : s.v = t.v) (x : Reg) : s.reg x = t.reg x := by
  simp [reg, h]

theorem reg_setReg (s : State) (x y : Reg) (b : Byte) :
    (s.setReg x b).reg y = if y = x then b else s.reg y := by
  have : (x.toNat = y.toNat) ↔ y = x := by
    rw [eq_comm, BitVec.toNat_inj]
  simp only [reg, setReg, Vector.getElem_set, this]

@[simp] theorem reg_setReg_self (s : State) (x : Reg) (b : Byte) : (s.setReg x b).reg x = b := by
  simp [reg_setReg]

/-- The flag and the result (R9): a result in VF replaces the flag. -/
theorem reg_setFlagThenReg (s : State) (f : Byte) (x y : Reg) (b : Byte) :
    (s.setFlagThenReg f x b).reg y = if y = x then b else if y = vf then f else s.reg y := by
  simp [setFlagThenReg, reg_setReg]

theorem reg_completeWait (s : State) (k : Key) (y : Reg) :
    (s.completeWait k).reg y = if y = s.waitReg then k.setWidth 8 else s.reg y := by
  have h : (s.completeWait k).reg y = (s.setReg s.waitReg (k.setWidth 8)).reg y := reg_of_v rfl y
  rw [h, reg_setReg]

theorem reg_loadRegs (s : State) (x y : Reg) :
    (s.loadRegs x).reg y = if y.toNat ≤ x.toNat then s.byteAt (s.i.toNat + y.toNat) else s.reg y := by
  simp [reg, loadRegs, ea]

theorem length_regsUpTo (s : State) (x : Reg) : (s.regsUpTo x).length = x.toNat + 1 := by
  have := x.isLt
  simp [regsUpTo]; omega

theorem getD_regsUpTo (s : State) (x y : Reg) (h : y.toNat ≤ x.toNat) :
    (s.regsUpTo x).getD y.toNat 0 = s.reg y := by
  have hy : y.toNat < 16 := y.isLt
  simp [regsUpTo, reg, List.getD, h, Vector.getElem?_eq_getElem hy]

/-! ## The data check (R49) -/

/-- The check either runs the access on the state or raises DataBounds, and nothing else. -/
theorem withData_cases (s : State) (i : Instr) (n : Nat) (k : State → State) :
    (inRange s.i.toNat n = true ∧ s.withData i n k = k s) ∨
    (inRange s.i.toNat n = false ∧
      s.withData i n k = s.raiseExec .dataBounds i (max s.i.toNat Config.memSize)) := by
  unfold withData
  cases inRange s.i.toNat n <;> simp

theorem inRange_iff (a n : Nat) : inRange a n = true ↔ n = 0 ∨ a + n ≤ 4096 := by
  simp [inRange, Config.memSize]

theorem inRange_succ (a n : Nat) : inRange a (n + 1) = true ↔ a + n < 4096 := by
  simp [inRange, Config.memSize]; omega

/-! ## Memory (R42, R43) -/

/-- Bytes stored in memory read back in order, and every other address reads as before. -/
theorem byteAt_storeBytes (s : State) (a : Nat) (bs : List Byte) (h : a + bs.length ≤ Config.memSize) (c : Nat) :
    (s.storeBytes a bs).byteAt c = if a ≤ c ∧ c < a + bs.length then bs.getD (c - a) 0 else s.byteAt c :=
  Memory.get_store s.font bs s.mem a h c

@[simp] theorem length_loadBytes (s : State) (a n : Nat) : (s.loadBytes a n).length = n :=
  Memory.length_load s.font s.mem a n

theorem getD_loadBytes (s : State) (a n k : Nat) (h : k < n) : (s.loadBytes a n).getD k 0 = s.byteAt (a + k) :=
  Memory.getD_load s.font s.mem a n k h

/-- A byte of the machine right after Reset: FONT at 0 to 79, 0 elsewhere (R28). -/
theorem byteAt_resetWith (f : Config.Font) (a : Nat) :
    (resetWith f).byteAt a = if h : a < Config.fontSize then f[a] else 0 := rfl

/-! ## The stack (R18) -/

theorem push?_full (s : State) (w : Word) (h : s.sp.val = 16) : s.push? w = none := by
  simp [push?, h, Config.stackDepth]

/-- A push on a stack that is not full: the entry at SP is the word, SP is one more, all else is kept. -/
theorem push?_some {s t : State} {w : Word} (h : s.push? w = some t) :
    ∃ hs : s.sp.val < 16, t = { s with stack := s.stack.set s.sp.val w hs, sp := ⟨s.sp.val + 1, by omega⟩ } := by
  unfold push? at h
  split at h
  · next hs => exact ⟨hs, (Option.some.inj h).symm⟩
  · simp at h

theorem push?_of_lt (s : State) (w : Word) (hs : s.sp.val < 16) :
    s.push? w = some { s with stack := s.stack.set s.sp.val w hs, sp := ⟨s.sp.val + 1, by omega⟩ } := by
  simp [push?, hs, Config.stackDepth]

theorem pop?_empty (s : State) (h : s.sp.val = 0) : s.pop? = none := by
  simp [pop?, h]

theorem pop?_of_pos (s : State) (h : 0 < s.sp.val) :
    s.pop? = some (s.stack[s.sp.val - 1]'(by have := s.sp.isLt; omega),
      { s with sp := ⟨s.sp.val - 1, by have := s.sp.isLt; omega⟩ }) := by
  simp [pop?, h]

theorem stackAt_set (s : State) (k : Fin 16) (w : Word) (j : Nat) (hj : j < 16) :
    (s.stack.set j w hj)[k.val] = if j = k.val then w else s.stackAt k := by
  simp [stackAt, Vector.getElem_set]

/-! ## Keys -/

theorem key_setKey (s : State) (k j : Key) (b : Bool) :
    (s.setKey k b).key j = if j = k then b else s.key j := by
  have : (k.toNat = j.toNat) ↔ j = k := by
    rw [eq_comm, BitVec.toNat_inj]
  simp only [key, setKey, Vector.getElem_set, this]

/-- What a skip on a key can do: the skip or not for a key 0 to 15, KeyRange for any other value. -/
theorem skipOnKey_cases (s : State) (i : Instr) (x : Reg) (want : Bool) :
    ((s.reg x).toNat ≤ 15 ∧
      s.skipOnKey i x want = s.skipIf (s.key ((s.reg x).setWidth 4) == want)) ∨
    (15 < (s.reg x).toNat ∧ s.skipOnKey i x want = s.raiseExec .keyRange i (s.reg x).toNat) := by
  unfold skipOnKey
  split
  · next h => exact .inl ⟨h, rfl⟩
  · next h => exact .inr ⟨by omega, rfl⟩

end State

namespace Screen

theorem get_blank (r : Fin 32) (c : Fin 64) : blank.get r c = false := by
  simp [get, blank]

/-- Flipping a pixel changes that pixel and no other. -/
theorem get_flip (sc : Screen) (r r' : Fin 32) (c c' : Fin 64) :
    (sc.flip r c).get r' c' = if r' = r ∧ c' = c then !sc.get r c else sc.get r' c' := by
  unfold flip get
  simp only [Vector.getElem_set]
  by_cases hr : r = r'
  · subst hr
    by_cases hc : c = c'
    · subst hc; simp
    · have h1 : c.val ≠ c'.val := fun h => hc (Fin.ext h)
      have h2 : c' ≠ c := fun h => hc h.symm
      simp [h1, h2]
  · have h1 : r.val ≠ r'.val := fun h => hr (Fin.ext h)
    have h2 : r' ≠ r := fun h => hr h.symm
    simp [h1, h2]

end Screen

end Sys2Proof.Machine
end

