-- ==== Sys2Proof/Laws/PerInstr.lean ====
section
/-! SUPPORT. Statements made for every instruction, one lemma per constructor. -/

namespace Sys2Proof.Laws.EncodeMatchesRow

open Sys2Proof

/-- The instruction's word is one its own row of the opcode table accepts (R66): the row's mnemonic is the instruction's, and the word under the row's mask is the row's value. -/
def Statement (i : Instr) : Prop :=
  ∃ r ∈ opcodeTable, r.mnemonic = i.mnemonic ∧ r.accepts (encode i) = true

/-! ## The five word shapes under a row's mask -/

theorem accepts_addr (m : String) (f : Nibble) (nnn : Addr) :
    (OpRow.mk m 0xF000#16 (f ++ 0x000#12)).accepts (f ++ nnn) = true := by
  simp only [OpRow.accepts, beq_iff_eq]
  apply BitVec.eq_of_getLsbD_eq
  intro k hk
  interval_cases k <;> simp only [BitVec.getLsbD_and, BitVec.getLsbD_append] <;> simp

theorem accepts_imm (m : String) (f : Nibble) (x : Reg) (kk : Byte) :
    (OpRow.mk m 0xF000#16 (f ++ 0x000#12)).accepts (f ++ x ++ kk) = true := by
  simp only [OpRow.accepts, beq_iff_eq]
  apply BitVec.eq_of_getLsbD_eq
  intro k hk
  interval_cases k <;> simp only [BitVec.getLsbD_and, BitVec.getLsbD_append] <;> simp

theorem accepts_regs (m : String) (f : Nibble) (x y : Reg) (n : Nibble) :
    (OpRow.mk m 0xF000#16 (f ++ 0x000#12)).accepts (f ++ x ++ y ++ n) = true := by
  simp only [OpRow.accepts, beq_iff_eq]
  apply BitVec.eq_of_getLsbD_eq
  intro k hk
  interval_cases k <;> simp only [BitVec.getLsbD_and, BitVec.getLsbD_append] <;> simp

theorem accepts_alu (m : String) (f : Nibble) (x y : Reg) (n : Nibble) :
    (OpRow.mk m 0xF00F#16 (f ++ 0x00#8 ++ n)).accepts (f ++ x ++ y ++ n) = true := by
  simp only [OpRow.accepts, beq_iff_eq]
  apply BitVec.eq_of_getLsbD_eq
  intro k hk
  interval_cases k <;> simp only [BitVec.getLsbD_and, BitVec.getLsbD_append] <;> simp

theorem accepts_byte (m : String) (f : Nibble) (x : Reg) (kk : Byte) :
    (OpRow.mk m 0xF0FF#16 (f ++ 0x0#4 ++ kk)).accepts (f ++ x ++ kk) = true := by
  simp only [OpRow.accepts, beq_iff_eq]
  apply BitVec.eq_of_getLsbD_eq
  intro k hk
  interval_cases k <;> simp only [BitVec.getLsbD_and, BitVec.getLsbD_append] <;> simp

/-! ## One lemma per constructor -/

theorem cls : Statement .cls :=
  ⟨⟨"CLS", 0xFFFF#16, 0x00E0#16⟩, by simp [opcodeTable, opRowsA, opRowsB, opRowsC, opRowsD, opRowsHoles], rfl, by decide⟩

theorem ret : Statement .ret :=
  ⟨⟨"RET", 0xFFFF#16, 0x00EE#16⟩, by simp [opcodeTable, opRowsA, opRowsB, opRowsC, opRowsD, opRowsHoles], rfl, by decide⟩

theorem jp (nnn : Addr) : Statement (.jp nnn) :=
  ⟨⟨"JP_nnn", 0xF000#16, 0x1000#16⟩, by simp [opcodeTable, opRowsA, opRowsB, opRowsC, opRowsD, opRowsHoles], rfl, accepts_addr _ 0x1#4 nnn⟩

theorem call (nnn : Addr) : Statement (.call nnn) :=
  ⟨⟨"CALL_nnn", 0xF000#16, 0x2000#16⟩, by simp [opcodeTable, opRowsA, opRowsB, opRowsC, opRowsD, opRowsHoles], rfl, accepts_addr _ 0x2#4 nnn⟩

theorem seImm (x : Reg) (kk : Byte) : Statement (.seImm x kk) :=
  ⟨⟨"SE_Vx_kk", 0xF000#16, 0x3000#16⟩, by simp [opcodeTable, opRowsA, opRowsB, opRowsC, opRowsD, opRowsHoles], rfl, accepts_imm _ 0x3#4 x kk⟩

theorem sneImm (x : Reg) (kk : Byte) : Statement (.sneImm x kk) :=
  ⟨⟨"SNE_Vx_kk", 0xF000#16, 0x4000#16⟩, by simp [opcodeTable, opRowsA, opRowsB, opRowsC, opRowsD, opRowsHoles], rfl, accepts_imm _ 0x4#4 x kk⟩

theorem seReg (x y : Reg) (n : Nibble) : Statement (.seReg x y n) :=
  ⟨⟨"SE_Vx_Vy", 0xF000#16, 0x5000#16⟩, by simp [opcodeTable, opRowsA, opRowsB, opRowsC, opRowsD, opRowsHoles], rfl, accepts_regs _ 0x5#4 x y n⟩

theorem ldImm (x : Reg) (kk : Byte) : Statement (.ldImm x kk) :=
  ⟨⟨"LD_Vx_kk", 0xF000#16, 0x6000#16⟩, by simp [opcodeTable, opRowsA, opRowsB, opRowsC, opRowsD, opRowsHoles], rfl, accepts_imm _ 0x6#4 x kk⟩

theorem addImm (x : Reg) (kk : Byte) : Statement (.addImm x kk) :=
  ⟨⟨"ADD_Vx_kk", 0xF000#16, 0x7000#16⟩, by simp [opcodeTable, opRowsA, opRowsB, opRowsC, opRowsD, opRowsHoles], rfl, accepts_imm _ 0x7#4 x kk⟩

theorem ldReg (x y : Reg) : Statement (.ldReg x y) :=
  ⟨⟨"LD_Vx_Vy", 0xF00F#16, 0x8000#16⟩, by simp [opcodeTable, opRowsA, opRowsB, opRowsC, opRowsD, opRowsHoles], rfl, accepts_alu _ 0x8#4 x y 0x0#4⟩

theorem orReg (x y : Reg) : Statement (.orReg x y) :=
  ⟨⟨"OR_Vx_Vy", 0xF00F#16, 0x8001#16⟩, by simp [opcodeTable, opRowsA, opRowsB, opRowsC, opRowsD, opRowsHoles], rfl, accepts_alu _ 0x8#4 x y 0x1#4⟩

theorem andReg (x y : Reg) : Statement (.andReg x y) :=
  ⟨⟨"AND_Vx_Vy", 0xF00F#16, 0x8002#16⟩, by simp [opcodeTable, opRowsA, opRowsB, opRowsC, opRowsD, opRowsHoles], rfl, accepts_alu _ 0x8#4 x y 0x2#4⟩

theorem xorReg (x y : Reg) : Statement (.xorReg x y) :=
  ⟨⟨"XOR_Vx_Vy", 0xF00F#16, 0x8003#16⟩, by simp [opcodeTable, opRowsA, opRowsB, opRowsC, opRowsD, opRowsHoles], rfl, accepts_alu _ 0x8#4 x y 0x3#4⟩

theorem addReg (x y : Reg) : Statement (.addReg x y) :=
  ⟨⟨"ADD_Vx_Vy", 0xF00F#16, 0x8004#16⟩, by simp [opcodeTable, opRowsA, opRowsB, opRowsC, opRowsD, opRowsHoles], rfl, accepts_alu _ 0x8#4 x y 0x4#4⟩

theorem subReg (x y : Reg) : Statement (.subReg x y) :=
  ⟨⟨"SUB_Vx_Vy", 0xF00F#16, 0x8005#16⟩, by simp [opcodeTable, opRowsA, opRowsB, opRowsC, opRowsD, opRowsHoles], rfl, accepts_alu _ 0x8#4 x y 0x5#4⟩

theorem shr (x y : Reg) : Statement (.shr x y) :=
  ⟨⟨"SHR_Vx", 0xF00F#16, 0x8006#16⟩, by simp [opcodeTable, opRowsA, opRowsB, opRowsC, opRowsD, opRowsHoles], rfl, accepts_alu _ 0x8#4 x y 0x6#4⟩

theorem subnReg (x y : Reg) : Statement (.subnReg x y) :=
  ⟨⟨"SUBN_Vx_Vy", 0xF00F#16, 0x8007#16⟩, by simp [opcodeTable, opRowsA, opRowsB, opRowsC, opRowsD, opRowsHoles], rfl, accepts_alu _ 0x8#4 x y 0x7#4⟩

theorem shl (x y : Reg) : Statement (.shl x y) :=
  ⟨⟨"SHL_Vx", 0xF00F#16, 0x800E#16⟩, by simp [opcodeTable, opRowsA, opRowsB, opRowsC, opRowsD, opRowsHoles], rfl, accepts_alu _ 0x8#4 x y 0xE#4⟩

theorem sneReg (x y : Reg) (n : Nibble) : Statement (.sneReg x y n) :=
  ⟨⟨"SNE_Vx_Vy", 0xF000#16, 0x9000#16⟩, by simp [opcodeTable, opRowsA, opRowsB, opRowsC, opRowsD, opRowsHoles], rfl, accepts_regs _ 0x9#4 x y n⟩

theorem ldI (nnn : Addr) : Statement (.ldI nnn) :=
  ⟨⟨"LD_I_nnn", 0xF000#16, 0xA000#16⟩, by simp [opcodeTable, opRowsA, opRowsB, opRowsC, opRowsD, opRowsHoles], rfl, accepts_addr _ 0xA#4 nnn⟩

theorem jpV0 (nnn : Addr) : Statement (.jpV0 nnn) :=
  ⟨⟨"JP_V0_nnn", 0xF000#16, 0xB000#16⟩, by simp [opcodeTable, opRowsA, opRowsB, opRowsC, opRowsD, opRowsHoles], rfl, accepts_addr _ 0xB#4 nnn⟩

theorem rnd (x : Reg) (kk : Byte) : Statement (.rnd x kk) :=
  ⟨⟨"RND_Vx_kk", 0xF000#16, 0xC000#16⟩, by simp [opcodeTable, opRowsA, opRowsB, opRowsC, opRowsD, opRowsHoles], rfl, accepts_imm _ 0xC#4 x kk⟩

theorem drw (x y : Reg) (n : Nibble) : Statement (.drw x y n) :=
  ⟨⟨"DRW_Vx_Vy_n", 0xF000#16, 0xD000#16⟩, by simp [opcodeTable, opRowsA, opRowsB, opRowsC, opRowsD, opRowsHoles], rfl, accepts_regs _ 0xD#4 x y n⟩

theorem skp (x : Reg) : Statement (.skp x) :=
  ⟨⟨"SKP_Vx", 0xF0FF#16, 0xE09E#16⟩, by simp [opcodeTable, opRowsA, opRowsB, opRowsC, opRowsD, opRowsHoles], rfl, accepts_byte _ 0xE#4 x 0x9E#8⟩

theorem sknp (x : Reg) : Statement (.sknp x) :=
  ⟨⟨"SKNP_Vx", 0xF0FF#16, 0xE0A1#16⟩, by simp [opcodeTable, opRowsA, opRowsB, opRowsC, opRowsD, opRowsHoles], rfl, accepts_byte _ 0xE#4 x 0xA1#8⟩

theorem ldVxDt (x : Reg) : Statement (.ldVxDt x) :=
  ⟨⟨"LD_Vx_DT", 0xF0FF#16, 0xF007#16⟩, by simp [opcodeTable, opRowsA, opRowsB, opRowsC, opRowsD, opRowsHoles], rfl, accepts_byte _ 0xF#4 x 0x07#8⟩

theorem ldVxK (x : Reg) : Statement (.ldVxK x) :=
  ⟨⟨"LD_Vx_K", 0xF0FF#16, 0xF00A#16⟩, by simp [opcodeTable, opRowsA, opRowsB, opRowsC, opRowsD, opRowsHoles], rfl, accepts_byte _ 0xF#4 x 0x0A#8⟩

theorem ldDtVx (x : Reg) : Statement (.ldDtVx x) :=
  ⟨⟨"LD_DT_Vx", 0xF0FF#16, 0xF015#16⟩, by simp [opcodeTable, opRowsA, opRowsB, opRowsC, opRowsD, opRowsHoles], rfl, accepts_byte _ 0xF#4 x 0x15#8⟩

theorem ldStVx (x : Reg) : Statement (.ldStVx x) :=
  ⟨⟨"LD_ST_Vx", 0xF0FF#16, 0xF018#16⟩, by simp [opcodeTable, opRowsA, opRowsB, opRowsC, opRowsD, opRowsHoles], rfl, accepts_byte _ 0xF#4 x 0x18#8⟩

theorem addIVx (x : Reg) : Statement (.addIVx x) :=
  ⟨⟨"ADD_I_Vx", 0xF0FF#16, 0xF01E#16⟩, by simp [opcodeTable, opRowsA, opRowsB, opRowsC, opRowsD, opRowsHoles], rfl, accepts_byte _ 0xF#4 x 0x1E#8⟩

theorem ldFVx (x : Reg) : Statement (.ldFVx x) :=
  ⟨⟨"LD_F_Vx", 0xF0FF#16, 0xF029#16⟩, by simp [opcodeTable, opRowsA, opRowsB, opRowsC, opRowsD, opRowsHoles], rfl, accepts_byte _ 0xF#4 x 0x29#8⟩

theorem ldBVx (x : Reg) : Statement (.ldBVx x) :=
  ⟨⟨"LD_B_Vx", 0xF0FF#16, 0xF033#16⟩, by simp [opcodeTable, opRowsA, opRowsB, opRowsC, opRowsD, opRowsHoles], rfl, accepts_byte _ 0xF#4 x 0x33#8⟩

theorem ldMemVx (x : Reg) : Statement (.ldMemVx x) :=
  ⟨⟨"LD__I__Vx", 0xF0FF#16, 0xF055#16⟩, by simp [opcodeTable, opRowsA, opRowsB, opRowsC, opRowsD, opRowsHoles], rfl, accepts_byte _ 0xF#4 x 0x55#8⟩

theorem ldVxMem (x : Reg) : Statement (.ldVxMem x) :=
  ⟨⟨"LD_Vx__I", 0xF0FF#16, 0xF065#16⟩, by simp [opcodeTable, opRowsA, opRowsB, opRowsC, opRowsD, opRowsHoles], rfl, accepts_byte _ 0xF#4 x 0x65#8⟩

theorem nop0 (nnn : Addr) : Statement (.nop0 nnn) :=
  ⟨⟨"NOP.0nnn", 0xF000#16, 0x0000#16⟩, by simp [opcodeTable, opRowsA, opRowsB, opRowsC, opRowsD, opRowsHoles], rfl, accepts_addr _ 0x0#4 nnn⟩

theorem nop8 (x y : Reg) (n : Nibble) : Statement (.nop8 x y n) :=
  ⟨⟨"NOP.8xyN", 0xF000#16, 0x8000#16⟩, by simp [opcodeTable, opRowsA, opRowsB, opRowsC, opRowsD, opRowsHoles], rfl, accepts_regs _ 0x8#4 x y n⟩

theorem nopE (x : Reg) (kk : Byte) : Statement (.nopE x kk) :=
  ⟨⟨"NOP.Exkk", 0xF000#16, 0xE000#16⟩, by simp [opcodeTable, opRowsA, opRowsB, opRowsC, opRowsD, opRowsHoles], rfl, accepts_imm _ 0xE#4 x kk⟩

theorem nopF (x : Reg) (kk : Byte) : Statement (.nopF x kk) :=
  ⟨⟨"NOP.Fxkk", 0xF000#16, 0xF000#16⟩, by simp [opcodeTable, opRowsA, opRowsB, opRowsC, opRowsD, opRowsHoles], rfl, accepts_imm _ 0xF#4 x kk⟩

end Sys2Proof.Laws.EncodeMatchesRow
end

