-- ==== Sys2Proof/Laws/Sprite.lean ====
section
/-! SUPPORT. What drawing a sprite does (spec 44_display.md R137 corner case d, R138): no pixel is visited twice, so each pixel is XORed with whether a 1 bit lands on it, and the collision says whether some 1 bit met a lit pixel. -/

namespace Sys2Proof.Machine

open Sys2Proof

/-- XORing distinct pixels: each listed pixel flips, no other does. -/
theorem get_xorPixels (ps : List (Fin 32 × Fin 64)) (hnd : ps.Nodup) (sc : Screen) (hit : Bool)
    (r : Fin 32) (c : Fin 64) :
    (xorPixels ps (sc, hit)).1.get r c = (sc.get r c ^^ decide ((r, c) ∈ ps)) := by
  induction ps generalizing sc hit with
  | nil => simp [xorPixels]
  | cons p ps ih =>
    obtain ⟨hp, hnd⟩ := List.nodup_cons.mp hnd
    rw [xorPixels, ih hnd, Screen.get_flip]
    by_cases h : (r, c) = p
    · subst h
      simp [hp]
    · have h' : ¬ (r = p.1 ∧ c = p.2) := fun ⟨h1, h2⟩ => h (by simp [h1, h2])
      simp [h, h']

/-- XORing distinct pixels: the collision is that some listed pixel was lit. -/
theorem hit_xorPixels (ps : List (Fin 32 × Fin 64)) (hnd : ps.Nodup) (sc : Screen) (hit : Bool) :
    (xorPixels ps (sc, hit)).2 = (hit || decide (∃ p ∈ ps, sc.get p.1 p.2 = true)) := by
  induction ps generalizing sc hit with
  | nil => simp [xorPixels]
  | cons p ps ih =>
    obtain ⟨hp, hnd⟩ := List.nodup_cons.mp hnd
    rw [xorPixels, ih hnd]
    have hsame : ∀ q ∈ ps, (sc.flip p.1 p.2).get q.1 q.2 = sc.get q.1 q.2 := by
      intro q hq
      rw [Screen.get_flip, if_neg]
      rintro ⟨h1, h2⟩
      exact hp (by rwa [show p = q from Prod.ext h1.symm h2.symm])
    have hex : (∃ q ∈ ps, (sc.flip p.1 p.2).get q.1 q.2 = true) ↔ (∃ q ∈ ps, sc.get q.1 q.2 = true) :=
      ⟨fun ⟨q, hq, h⟩ => ⟨q, hq, by rwa [hsame q hq] at h⟩, fun ⟨q, hq, h⟩ => ⟨q, hq, by rwa [hsame q hq]⟩⟩
    simp only [hex, List.mem_cons, exists_eq_or_imp, Bool.decide_or, Bool.decide_eq_true, Bool.or_assoc]

theorem mem_rowHits (vx vy : Byte) (row : Nat) (b : Byte) (r : Fin 32) (c : Fin 64) :
    (r, c) ∈ rowHits vx vy row b ↔
      ∃ col < 8, spriteBit b col = true ∧ spriteRow vy row = r ∧ spriteCol vx col = c := by
  simp only [rowHits, List.mem_map, List.mem_filter, List.mem_range, Prod.mk.injEq, and_assoc]

theorem mem_spriteHits (vx vy : Byte) (bs : List Byte) (row0 : Nat) (r : Fin 32) (c : Fin 64) :
    (r, c) ∈ spriteHits vx vy row0 bs ↔
      ∃ row < bs.length, ∃ col < 8, spriteBit (bs.getD row 0) col = true ∧
        spriteRow vy (row0 + row) = r ∧ spriteCol vx col = c := by
  induction bs generalizing row0 with
  | nil => simp [spriteHits]
  | cons b bs ih =>
    simp only [spriteHits, List.mem_append, mem_rowHits, ih, List.length_cons]
    constructor
    · rintro (h | ⟨row, hr, h⟩)
      · exact ⟨0, by omega, by simpa using h⟩
      · exact ⟨row + 1, by omega, by simpa [Nat.add_assoc, Nat.add_comm 1] using h⟩
    · rintro ⟨row, hr, h⟩
      cases row with
      | zero => exact .inl (by simpa using h)
      | succ row => exact .inr ⟨row, by omega, by simpa [Nat.add_assoc, Nat.add_comm 1] using h⟩

theorem spriteRow_inj {vy : Byte} {a b : Nat} (hb : b < a + 32) (ha : a < b + 32)
    (h : spriteRow vy a = spriteRow vy b) : a = b := by
  have := congrArg Fin.val h
  simp only [spriteRow, Fin.val_ofNat] at this
  omega

theorem spriteCol_inj {vx : Byte} {a b : Nat} (hb : b < 8) (ha : a < 8)
    (h : spriteCol vx a = spriteCol vx b) : a = b := by
  have := congrArg Fin.val h
  simp only [spriteCol, Fin.val_ofNat] at this
  omega

theorem nodup_rowHits (vx vy : Byte) (row : Nat) (b : Byte) : (rowHits vx vy row b).Nodup := by
  refine List.Nodup.map_on ?_ (List.nodup_range.filter _)
  intro a ha c hc h
  simp only [List.mem_filter, List.mem_range] at ha hc
  exact spriteCol_inj hc.1 ha.1 (Prod.mk.inj h).2

/-- A sprite of at most 32 rows visits no pixel twice (R137 corner case d). -/
theorem nodup_spriteHits (vx vy : Byte) (bs : List Byte) (row0 : Nat) (h : bs.length ≤ 32) :
    (spriteHits vx vy row0 bs).Nodup := by
  induction bs generalizing row0 with
  | nil => simp [spriteHits]
  | cons b bs ih =>
    simp only [List.length_cons] at h
    refine List.Nodup.append (nodup_rowHits ..) (ih _ (by omega)) ?_
    rintro ⟨r, c⟩ h1 h2
    obtain ⟨_, _, _, hr1, _⟩ := (mem_rowHits ..).mp h1
    obtain ⟨row, hrow, _, _, _, hr2, _⟩ := (mem_spriteHits ..).mp h2
    have := spriteRow_inj (by omega) (by omega) (hr1.trans hr2.symm)
    omega

/-- A pixel after a draw (R137): XORed with whether some 1 bit lands on it. -/
theorem get_drawSprite (vx vy : Byte) (bs : List Byte) (h : bs.length ≤ 32) (sc : Screen)
    (r : Fin 32) (c : Fin 64) :
    (drawSprite vx vy bs sc).1.get r c = (sc.get r c ^^ decide ((r, c) ∈ spriteHits vx vy 0 bs)) :=
  get_xorPixels _ (nodup_spriteHits _ _ _ _ h) _ _ _ _

/-- The collision of a draw (R138): some 1 bit met a pixel that was on. -/
theorem hit_drawSprite (vx vy : Byte) (bs : List Byte) (h : bs.length ≤ 32) (sc : Screen) :
    (drawSprite vx vy bs sc).2 = decide (∃ p ∈ spriteHits vx vy 0 bs, sc.get p.1 p.2 = true) := by
  simp [drawSprite, hit_xorPixels _ (nodup_spriteHits _ _ _ _ h)]

end Sys2Proof.Machine
end

