-- ==== Sys2Proof/Laws/Step.lean ====
section
/-! SUPPORT. What a step can do, once: the turn it takes, and for the core's turn the fetch, the hold and the stop. -/

namespace Sys2Proof.Machine

open Sys2Proof

/-- No meaning stops: every instruction answers a next state. -/
theorem exec_next (j : Instr) (s : State) : ∃ t, exec j s = .next t := by
  cases j
  case ret => simp only [exec, execRet]; split <;> exact ⟨_, rfl⟩
  case call nnn => simp only [exec, execCall]; split <;> exact ⟨_, rfl⟩
  all_goals exact ⟨_, rfl⟩

/-- The core's Step: execute the fetched word, raise FetchBounds, hold, or stop. -/
theorem coreStep_cases (s : State) :
    (s.status = .run ∧ s.canFetch = true ∧ coreStep s = exec (decodeWord s.opcodeAt) s.afterFetch) ∨
    (s.status = .run ∧ s.canFetch = false ∧ coreStep s = .next s.raiseFetch) ∨
    (s.status = .waitKey ∧ coreStep s = .next s) ∨
    (s.status = .fault ∧ coreStep s = .fault (.halted s.fcause)) := by
  unfold coreStep
  cases hs : s.status <;> cases hf : s.canFetch <;> simp

/-- A step takes the core's turn on the state with that turn used up, or the host's. -/
theorem step_cases (s : State) :
    (s.coreNext = true ∧ step s = coreStep (s.setSchedule s.schedule.tail)) ∨
    ∃ e rest, s.schedule = .host e :: rest ∧ step s = .next (hostEvent e (s.setSchedule rest)) := by
  unfold step State.coreNext
  cases hs : s.schedule with
  | nil =>
    refine .inl ⟨rfl, ?_⟩
    cases s
    simp_all [State.setSchedule]
  | cons u rest =>
    cases u with
    | core => exact .inl ⟨rfl, rfl⟩
    | host e => exact .inr ⟨e, rest, rfl, rfl⟩

/-- The core's turn, whoever used the turn up. -/
theorem step_coreNext {s : State} (h : s.coreNext = true) :
    step s = coreStep (s.setSchedule s.schedule.tail) := by
  rcases step_cases s with ⟨_, h'⟩ | ⟨e, rest, hs, _⟩
  · exact h'
  · simp [State.coreNext, hs] at h

/-- A ready state executes the word at PC (R62). -/
theorem step_of_ready {s : State} (h : s.ready = true) :
    step s = exec (decodeWord s.opcodeAt) s.executing := by
  simp only [State.ready, Bool.and_eq_true, beq_iff_eq] at h
  obtain ⟨⟨h1, h2⟩, h3⟩ := h
  rw [step_coreNext h1]
  have h4 : (s.setSchedule s.schedule.tail).status = .run := h2
  have h5 : (s.setSchedule s.schedule.tail).canFetch = true := h3
  simp only [coreStep, h4, h5, if_true]
  rfl

/-! ## The end of a run (R227) -/

/-- What an ended state is: in RUN, PC in memory, and the word at PC a jump to PC. -/
theorem ended_iff (s : State) :
    s.ended = true ↔ s.status = .run ∧ s.canFetch = true ∧ decodeWord s.opcodeAt = .jp (s.pc.setWidth 12) := by
  simp [State.ended, and_assoc]

/-- A run of n + m steps is a run of n and a run of m. -/
theorem reaches_add (n m : Nat) (s t : State) : Reaches (n + m) s t ↔ ∃ u, Reaches n s u ∧ Reaches m u t := by
  induction n generalizing s with
  | zero => simp [Reaches]
  | succ n ih =>
    rw [Nat.succ_add]
    simp only [Reaches, ih]
    constructor
    · rintro ⟨u, hu, w, hw, ht⟩; exact ⟨w, ⟨u, hu, hw⟩, ht⟩
    · rintro ⟨w, ⟨u, hu, hw⟩, ht⟩; exact ⟨u, hu, w, hw, ht⟩

end Sys2Proof.Machine
end

