-- ==== Sys2Proof/Tests/Slice0.lean ====
section
/-! SUPPORT. Tests: ill-formed terms refused, a word of each row decoded, one step of each instruction, and the witnesses of the statements' hypotheses.
The expected results are those of spec/95_test_vectors.md and of the rules' own examples; "start" is its start state. -/

namespace Sys2Proof.Tests

open Sys2Proof Sys2Proof.Machine Sys2Proof.Claims

/-! ## Well-formedness (30_encoding.md R67: the table of holes) -/

theorem test_nop0_is_not_cls : (Instr.nop0 0x0E0).wellFormed = false := by decide
theorem test_nop0_is_not_ret : (Instr.nop0 0x0EE).wellFormed = false := by decide
theorem test_nop0_well_formed : (Instr.nop0 0x0E1).wellFormed = true := by decide
theorem test_nop8_is_no_alu_op :
    ∀ n ∈ [0x0#4, 0x1#4, 0x2#4, 0x3#4, 0x4#4, 0x5#4, 0x6#4, 0x7#4, 0xE#4], (Instr.nop8 1 2 n).wellFormed = false := by decide
theorem test_nop8_well_formed :
    ∀ n ∈ [0x8#4, 0x9#4, 0xA#4, 0xB#4, 0xC#4, 0xD#4, 0xF#4], (Instr.nop8 1 2 n).wellFormed = true := by decide
theorem test_nopE_is_no_key_skip : (Instr.nopE 1 0x9E).wellFormed = false ∧ (Instr.nopE 1 0xA1).wellFormed = false := by decide
theorem test_nopE_well_formed : (Instr.nopE 1 0x9F).wellFormed = true := by decide
theorem test_nopF_is_no_f_op :
    ∀ kk ∈ [0x07#8, 0x0A#8, 0x15#8, 0x18#8, 0x1E#8, 0x29#8, 0x33#8, 0x55#8, 0x65#8], (Instr.nopF 1 kk).wellFormed = false := by decide
theorem test_nopF_well_formed : (Instr.nopF 0 0x75).wellFormed = true := by decide

/-! ## Decoding: one word of each row, written bit by bit from R60's layouts and R66's patterns -/

theorem test_decode_cls : decodeWord 0b0000000011100000#16 = .cls := by decide
theorem test_decode_ret : decodeWord 0b0000000011101110#16 = .ret := by decide
theorem test_decode_jp : decodeWord 0b0001001000110100#16 = .jp 0x234 := by decide
theorem test_decode_call : decodeWord 0b0010001100000000#16 = .call 0x300 := by decide
theorem test_decode_seImm : decodeWord 0b0011101001000010#16 = .seImm 0xA 0x42 := by decide
theorem test_decode_sneImm : decodeWord 0b0100101001000010#16 = .sneImm 0xA 0x42 := by decide
theorem test_decode_seReg : decodeWord 0b0101000100100101#16 = .seReg 1 2 5 := by decide
theorem test_decode_ldImm : decodeWord 0b0110001110101011#16 = .ldImm 3 0xAB := by decide
theorem test_decode_addImm : decodeWord 0b0111001000100000#16 = .addImm 2 0x20 := by decide
theorem test_decode_ldReg : decodeWord 0b1000000111110000#16 = .ldReg 1 0xF := by decide
theorem test_decode_orReg : decodeWord 0b1000000111110001#16 = .orReg 1 0xF := by decide
theorem test_decode_andReg : decodeWord 0b1000000111110010#16 = .andReg 1 0xF := by decide
theorem test_decode_xorReg : decodeWord 0b1000000111110011#16 = .xorReg 1 0xF := by decide
theorem test_decode_addReg : decodeWord 0b1000111100010100#16 = .addReg 0xF 1 := by decide
theorem test_decode_subReg : decodeWord 0b1000000011110101#16 = .subReg 0 0xF := by decide
theorem test_decode_shr : decodeWord 0b1000111100000110#16 = .shr 0xF 0 := by decide
theorem test_decode_subnReg : decodeWord 0b1000000000010111#16 = .subnReg 0 1 := by decide
theorem test_decode_shl : decodeWord 0b1000001100111110#16 = .shl 3 3 := by decide
theorem test_decode_sneReg : decodeWord 0b1001000100100000#16 = .sneReg 1 2 0 := by decide
theorem test_decode_ldI : decodeWord 0b1010000100100011#16 = .ldI 0x123 := by decide
theorem test_decode_jpV0 : decodeWord 0b1011001100000000#16 = .jpV0 0x300 := by decide
theorem test_decode_rnd : decodeWord 0b1100111111110000#16 = .rnd 0xF 0xF0 := by decide
theorem test_decode_drw : decodeWord 0b1101000100100101#16 = .drw 1 2 5 := by decide
theorem test_decode_skp : decodeWord 0b1110010010011110#16 = .skp 4 := by decide
theorem test_decode_sknp : decodeWord 0b1110010010100001#16 = .sknp 4 := by decide
theorem test_decode_ldVxDt : decodeWord 0b1111001000000111#16 = .ldVxDt 2 := by decide
theorem test_decode_ldVxK : decodeWord 0b1111000100001010#16 = .ldVxK 1 := by decide
theorem test_decode_ldDtVx : decodeWord 0b1111001000010101#16 = .ldDtVx 2 := by decide
theorem test_decode_ldStVx : decodeWord 0b1111001000011000#16 = .ldStVx 2 := by decide
theorem test_decode_addIVx : decodeWord 0b1111000100011110#16 = .addIVx 1 := by decide
theorem test_decode_ldFVx : decodeWord 0b1111001100101001#16 = .ldFVx 3 := by decide
theorem test_decode_ldBVx : decodeWord 0b1111000000110011#16 = .ldBVx 0 := by decide
theorem test_decode_ldMemVx : decodeWord 0b1111001001010101#16 = .ldMemVx 2 := by decide
theorem test_decode_ldVxMem : decodeWord 0b1111001001100101#16 = .ldVxMem 2 := by decide
theorem test_decode_nop0 : decodeWord 0b0000000100100011#16 = .nop0 0x123 := by decide
theorem test_decode_nop8 : decodeWord 0b1000000100101000#16 = .nop8 1 2 8 := by decide
theorem test_decode_nopE : decodeWord 0b1110000110011111#16 = .nopE 1 0x9F := by decide
theorem test_decode_nopF : decodeWord 0b1111000111111111#16 = .nopF 1 0xFF := by decide

/-- A near miss of CLS is a JP, another a hole (R69). -/
theorem test_decode_near_cls : decodeWord 0x10E0#16 = .jp 0x0E0 ∧ decodeWord 0x01E0#16 = .nop0 0x1E0 := by decide

/-- Bytes: the byte at the lower address is the high half, and the rest is left (R41); one byte is refused. -/
theorem test_decode_bytes : decode [0xF1#8, 0x0A#8, 0x12#8] = .ok (.ldVxK 1, [0x12#8]) := by rfl
theorem test_decode_truncated : decode [0xF1#8] = .error .truncated := by rfl
theorem test_decode_table_word : decodeTableWord 16 0x8014 = some (.addReg 0 1) := by rfl

/-! ## One step: helpers -/

/-- The start state of 95_test_vectors.md in the execute stage of the instruction at 0x200. -/
def start : State := { State.reset with pc := 0x202 }

/-- Set registers. -/
def regs : List (Reg × Byte) → State → State
  | [], s => s
  | p :: ps, s => regs ps (s.setReg p.1 p.2)

/-- Set bytes of memory from an address upward. -/
def bytes (a : Nat) (bs : List Byte) (s : State) : State := s.storeBytes a bs

/-- Turn one pixel on. -/
def lit (r : Fin 32) (c : Fin 64) (s : State) : State := s.setScreen (s.screen.flip r c)

/-- A property of the next state; false of a fault and of a refusal. -/
def thenIs (r : Result) (p : State → Bool) : Bool :=
  match r with
  | .next t => p t
  | _ => false

/-- The recorded fault: cause code, FPC, FOP, FINFO, in FAULT. -/
def faulted (code fpc fop finfo : Nat) (t : State) : Bool :=
  t.status == .fault && t.fcause.code.toNat == code && t.fpc.toNat == fpc && t.fop.toNat == fop &&
    t.finfo.toNat == finfo

/-! ## Control flow (L2.1) -/

theorem test_jp : thenIs (exec (.jp 0x234) start) (fun t => t.pc == 0x234) = true := by decide
theorem test_call : thenIs (exec (.call 0x300) start)
    (fun t => t.pc == 0x300 && t.sp == 1 && t.stackAt 0 == 0x0202) = true := by decide
theorem test_call_overflow : thenIs (exec (.call 0x200) { start with sp := 16 })
    (fun t => faulted 3 0x200 0x2200 0 t && t.pc == 0x202 && t.sp == 16) = true := by decide
theorem test_ret : thenIs (exec .ret { start with sp := 1, stack := start.stack.set 0 0x0ABC })
    (fun t => t.pc == 0x0ABC && t.sp == 0) = true := by decide
theorem test_ret_underflow : thenIs (exec .ret start)
    (fun t => faulted 4 0x200 0x00EE 0 t && t.pc == 0x202) = true := by decide
theorem test_seImm : thenIs (exec (.seImm 0xA 0x42) (regs [(0xA, 0x42)] start)) (fun t => t.pc == 0x204) = true := by decide
theorem test_seImm_not : thenIs (exec (.seImm 0xA 0x42) (regs [(0xA, 0x43)] start)) (fun t => t.pc == 0x202) = true := by decide
theorem test_sneImm : thenIs (exec (.sneImm 0xA 0x42) (regs [(0xA, 0x43)] start)) (fun t => t.pc == 0x204) = true := by decide
theorem test_sneImm_not : thenIs (exec (.sneImm 0xA 0x42) (regs [(0xA, 0x42)] start)) (fun t => t.pc == 0x202) = true := by decide
theorem test_seReg : thenIs (exec (.seReg 1 2 5) (regs [(1, 7), (2, 7)] start)) (fun t => t.pc == 0x204) = true := by decide
theorem test_seReg_not : thenIs (exec (.seReg 1 2 0) (regs [(1, 7), (2, 8)] start)) (fun t => t.pc == 0x202) = true := by decide
theorem test_sneReg : thenIs (exec (.sneReg 1 2 0) (regs [(1, 7), (2, 8)] start)) (fun t => t.pc == 0x204) = true := by decide
theorem test_sneReg_not : thenIs (exec (.sneReg 1 2 5) (regs [(1, 7), (2, 7)] start)) (fun t => t.pc == 0x202) = true := by decide
theorem test_jpV0 : thenIs (exec (.jpV0 0xFFF) (regs [(0, 0xFF)] start)) (fun t => t.pc == 0x10FE) = true := by decide
theorem test_jpV0_always_v0 : thenIs (exec (.jpV0 0x300) (regs [(3, 0x55)] start)) (fun t => t.pc == 0x0300) = true := by decide

/-! ## Immediates (L2.2) -/

theorem test_ldImm : thenIs (exec (.ldImm 3 0xAB) start) (fun t => t.reg 3 == 0xAB) = true := by decide
theorem test_addImm : thenIs (exec (.addImm 2 0x20) (regs [(2, 0xF0)] start))
    (fun t => t.reg 2 == 0x10 && t.reg vf == 0) = true := by decide
theorem test_addImm_vf : thenIs (exec (.addImm 0xF 1) (regs [(0xF, 0xFF)] start)) (fun t => t.reg vf == 0) = true := by decide
theorem test_ldI : thenIs (exec (.ldI 0xFFF) start) (fun t => t.i == 0x0FFF) = true := by decide

/-! ## The register ALU (L2.3); VF starts at 0x55 where it must stay -/

theorem test_ldReg : thenIs (exec (.ldReg 0 1) (regs [(0, 0xF3), (1, 0x5A), (0xF, 0x55)] start))
    (fun t => t.reg 0 == 0x5A && t.reg vf == 0x55) = true := by decide
theorem test_orReg : thenIs (exec (.orReg 0 1) (regs [(0, 0xF3), (1, 0x5A), (0xF, 0x55)] start))
    (fun t => t.reg 0 == 0xFB && t.reg vf == 0x55) = true := by decide
theorem test_andReg : thenIs (exec (.andReg 0 1) (regs [(0, 0xF3), (1, 0x5A), (0xF, 0x55)] start))
    (fun t => t.reg 0 == 0x52 && t.reg vf == 0x55) = true := by decide
theorem test_xorReg : thenIs (exec (.xorReg 0 1) (regs [(0, 0xF3), (1, 0x5A), (0xF, 0x55)] start))
    (fun t => t.reg 0 == 0xA9 && t.reg vf == 0x55) = true := by decide
theorem test_addReg : thenIs (exec (.addReg 0 1) (regs [(0, 0x80), (1, 0x80)] start))
    (fun t => t.reg 0 == 0 && t.reg vf == 1) = true := by decide
theorem test_addReg_vf : thenIs (exec (.addReg 0xF 1) (regs [(0xF, 0xF0), (1, 0x20)] start))
    (fun t => t.reg vf == 0x10) = true := by decide
theorem test_subReg_equal : thenIs (exec (.subReg 0 1) (regs [(0, 5), (1, 5)] start))
    (fun t => t.reg 0 == 0 && t.reg vf == 0) = true := by decide
theorem test_subReg_vf : thenIs (exec (.subReg 0 0xF) (regs [(0, 9), (0xF, 4)] start))
    (fun t => t.reg 0 == 5 && t.reg vf == 1) = true := by decide
theorem test_shr : thenIs (exec (.shr 0 1) (regs [(0, 5), (1, 0xEE)] start))
    (fun t => t.reg 0 == 2 && t.reg vf == 1 && t.reg 1 == 0xEE) = true := by decide
theorem test_shr_vf : thenIs (exec (.shr 0xF 0) (regs [(0xF, 7)] start)) (fun t => t.reg vf == 3) = true := by decide
theorem test_subnReg : thenIs (exec (.subnReg 0 1) (regs [(0, 3), (1, 5)] start))
    (fun t => t.reg 0 == 2 && t.reg vf == 1) = true := by decide
theorem test_subnReg_borrow : thenIs (exec (.subnReg 0 1) (regs [(0, 5), (1, 3)] start))
    (fun t => t.reg 0 == 0xFE && t.reg vf == 0) = true := by decide
theorem test_shl : thenIs (exec (.shl 0 1) (regs [(0, 0x81)] start))
    (fun t => t.reg 0 == 2 && t.reg vf == 0x80) = true := by decide
theorem test_shl_vf : thenIs (exec (.shl 0xF 0) (regs [(0xF, 0xC1)] start)) (fun t => t.reg vf == 0x82) = true := by decide

/-! ## Random (L2.4): only a mask of zero has a determined result -/

theorem test_rnd_zero_mask (s : State) :
    ∃ t, exec (.rnd 3 0) s = .next t ∧ t.v = s.v.set 3 0 :=
  ⟨_, rfl, by simp [State.setReg, State.tookDraw]⟩

/-! ## Display (L2.5) -/

theorem test_cls : thenIs (exec .cls (lit 3 4 (regs [(0xF, 9)] start)))
    (fun t => t.pixel 3 4 == false && t.reg vf == 9) = true := by decide
theorem test_drw_wraps : thenIs (exec (.drw 0 1 2) (regs [(0, 0x3F), (1, 0x1F)] (bytes 0x300 [0xC0, 0x80] { start with i := 0x300 })))
    (fun t => t.pixel 31 63 && t.pixel 31 0 && t.pixel 0 63 && !t.pixel 0 0 && t.reg vf == 0) = true := by decide
theorem test_drw_collides : thenIs (exec (.drw 0 1 1) (lit 0 0 (bytes 0x300 [0xC0] { start with i := 0x300 })))
    (fun t => !t.pixel 0 0 && t.pixel 0 1 && t.reg vf == 1) = true := by decide

/-! ## Keyboard (L2.6) -/

theorem test_skp : thenIs (exec (.skp 4) ((regs [(4, 0xA)] start).setKey 0xA true)) (fun t => t.pc == 0x204) = true := by decide
theorem test_skp_range : thenIs (exec (.skp 4) (regs [(4, 0x10)] start)) (faulted 5 0x200 0xE49E 0x10) = true := by decide
theorem test_sknp : thenIs (exec (.sknp 4) (regs [(4, 0xA)] start)) (fun t => t.pc == 0x204) = true := by decide
theorem test_sknp_range : thenIs (exec (.sknp 4) (regs [(4, 0xFF)] start)) (faulted 5 0x200 0xE4A1 0xFF) = true := by decide
theorem test_ldVxK : thenIs (exec (.ldVxK 1) start)
    (fun t => t.status == .waitKey && t.waitReg == 1 && t.pc == 0x202 && t.reg 1 == 0) = true := by decide

/-- The wait completes: V1 = 07, RUN, PC as it was, KEYS unchanged. -/
theorem test_key_completes_wait :
    let t := keyMapped (some 7) { start with status := .waitKey, waitReg := 1 }
    t.reg 1 = 7 ∧ t.status = .run ∧ t.pc = 0x202 ∧ t.key 7 = false := by decide

/-! ## Timers, index, memory (L2.7) -/

theorem test_ldVxDt : thenIs (exec (.ldVxDt 2) { start with dt := 0x3C }) (fun t => t.reg 2 == 0x3C) = true := by decide
theorem test_ldDtVx : thenIs (exec (.ldDtVx 2) (regs [(2, 0x3C)] start)) (fun t => t.dt == 0x3C && t.st == 0) = true := by decide
theorem test_ldStVx : thenIs (exec (.ldStVx 2) (regs [(2, 5)] start)) (fun t => t.st == 5 && t.dt == 0) = true := by decide
theorem test_addIVx : thenIs (exec (.addIVx 1) { regs [(1, 1)] start with i := 0x0FFF }) (fun t => t.i == 0x1000) = true := by decide
theorem test_addIVx_wraps : thenIs (exec (.addIVx 1) { regs [(1, 1)] start with i := 0xFFFF }) (fun t => t.i == 0) = true := by decide
theorem test_ldFVx : thenIs (exec (.ldFVx 3) (regs [(3, 0xFF)] start)) (fun t => t.i == 0x04FB) = true := by decide
theorem test_ldBVx : thenIs (exec (.ldBVx 0) (regs [(0, 0xFF)] { start with i := 0xFFD }))
    (fun t => t.byteAt 0xFFD == 2 && t.byteAt 0xFFE == 5 && t.byteAt 0xFFF == 5) = true := by decide
theorem test_ldBVx_bounds : thenIs (exec (.ldBVx 0) (regs [(0, 0xFF)] { start with i := 0xFFE }))
    (fun t => faulted 2 0x200 0xF033 0x1000 t && t.byteAt 0xFFE == 0) = true := by decide
theorem test_ldMemVx : thenIs (exec (.ldMemVx 2) (regs [(0, 0x11), (1, 0x22), (2, 0x33), (3, 0x44)] { start with i := 0x400 }))
    (fun t => t.byteAt 0x400 == 0x11 && t.byteAt 0x402 == 0x33 && t.byteAt 0x403 == 0 && t.i == 0x400) = true := by decide
theorem test_ldMemVx_bounds : thenIs (exec (.ldMemVx 1) (regs [(0, 0x9A)] { start with i := 0xFFF }))
    (fun t => faulted 2 0x200 0xF155 0x1000 t && t.byteAt 0xFFF == 0) = true := by decide
theorem test_ldVxMem : thenIs (exec (.ldVxMem 2) (bytes 0x400 [0x11, 0x22, 0x33, 0x44] { start with i := 0x400 }))
    (fun t => t.reg 0 == 0x11 && t.reg 2 == 0x33 && t.reg 3 == 0 && t.i == 0x400) = true := by decide
theorem test_ldVxMem_bounds : thenIs (exec (.ldVxMem 1) (bytes 0xFFF [0x7E] { start with i := 0xFFF }))
    (fun t => faulted 2 0x200 0xF165 0x1000 t && t.reg 0 == 0) = true := by decide

/-! ## Holes, the fetch and the host's transitions (L2.7, L2.8, L1 E7) -/

/-- Reset, no Load, one Step: F090 from the default font, an F hole (R221). -/
theorem test_step_from_reset : thenIs (step State.reset) (fun t => decide (t = { State.reset with pc := 2 })) = true := by decide

/-- The same Step on a machine of another FONT, all bytes 61: LD V1,61. -/
theorem test_step_from_reset_other_font :
    thenIs (step (State.resetWith (Vector.replicate 80 0x61))) (fun t => t.reg 1 == 0x61 && t.pc == 2) = true := by decide

/-- An odd PC is fetched like any other (R44): 6107 at 0x201. -/
theorem test_step_odd_pc : thenIs (step (bytes 0x201 [0x61, 0x07] { State.reset with pc := 0x201 }))
    (fun t => t.reg 1 == 7 && t.pc == 0x203) = true := by decide

/-- The last word of memory: 6012 at 0xFFE. -/
theorem test_step_last_word : thenIs (step (bytes 0xFFE [0x60, 0x12] { State.reset with pc := 0xFFE }))
    (fun t => t.reg 0 == 0x12 && t.pc == 0x1000) = true := by decide

/-- PC = 0xFFF: the second byte would be at 0x1000. -/
theorem test_step_fetch_bounds : thenIs (step { State.reset with pc := 0xFFF })
    (fun t => faulted 1 0xFFF 0 0xFFF t && t.pc == 0xFFF) = true := by decide

/-- The word placed is the word run: LD V3,AB after reset. -/
theorem test_withFetchWord : thenIs (step (State.reset.withFetchWord 16 0x63AB)) (fun t => t.reg 3 == 0xAB && t.pc == 2) = true := by decide

/-- The turns of a schedule: Reset and Load, then the program's first word runs. -/
theorem test_schedule_load :
    thenIs (step { State.reset with schedule := [.host (.load [0x63, 0xAB]), .core] })
      (fun t => t.pc == 0x200 && thenIs (step t) (fun u => u.reg 3 == 0xAB && u.pc == 0x202)) = true := by decide

theorem test_tick : (tick { State.reset with dt := 2 }).dt = 1 ∧ (tick State.reset).dt = 0 ∧ (tick State.reset).st = 0 := by decide
theorem test_load_size (buf : List Byte) (h : buf.length = 3585) :
    (load buf State.reset).finfo = 0x0E01 ∧ (load buf State.reset).fcause.code = 6 := by
  unfold load
  rw [h, if_pos (show State.reset.status = .run from rfl), if_neg (by decide)]
  decide

/-- A buffer of a given size, for the bounds of Load. -/
theorem length_zeros (n : Nat) : (List.replicate n (0 : Byte)).length = n := List.length_replicate

/-! ## Witnesses: a concrete state and operands for the hypotheses of each statement, each clause at its boundary -/

theorem witness_DecodeEncodeRoundTrip : (Instr.nopF 0 0x75).wellFormed = true ∧ (Instr.drw 1 2 5).wellFormed = true := by decide

/-- A row among the first 34 that takes a word, and a hole's row that would take it too. -/
theorem witness_DecoderTakesFirstMatchingRow :
    (⟨"CLS", 0xFFFF#16, 0x00E0#16⟩ : OpRow) ∈ opcodeTable.take 34 ∧
    (⟨"CLS", 0xFFFF#16, 0x00E0#16⟩ : OpRow).accepts 0x00E0#16 = true ∧
    (⟨"NOP.0nnn", 0xF000#16, 0x0000#16⟩ : OpRow) ∈ opcodeTable.drop 34 ∧
    (⟨"NOP.0nnn", 0xF000#16, 0x0000#16⟩ : OpRow).accepts 0x00E0#16 = true := by decide

theorem witness_HolesChangeNothing :
    (0x0E1 : Addr) ≠ 0x0E0 ∧ (0x0E1 : Addr) ≠ 0x0EE ∧ (0xF#4).toNat ∈ [8, 9, 0xA, 0xB, 0xC, 0xD, 0xF] ∧
    (0x9F#8).toNat ∉ [0x9E, 0xA1] ∧ (0x75#8).toNat ∉ [0x07, 0x0A, 0x15, 0x18, 0x1E, 0x29, 0x33, 0x55, 0x65] := by decide

/-- Reset itself is in RUN and stands at a hole (0xF090 of the default font). -/
theorem witness_HoleStepOnlyAdvancesPc :
    State.reset.status = .run ∧ State.reset.pc.toNat ≤ 4094 ∧ isHole (decodeWord State.reset.opcodeAt) = true := by decide

theorem witness_FetchThenExecute :
    State.reset.status = .run ∧ ({ State.reset with pc := 4094 } : State).pc.toNat ≤ 4094 ∧
    ¬ ({ State.reset with pc := 4095 } : State).pc.toNat ≤ 4094 := by decide

/-- The core's turn in RUN, at the last PC that fetches and the first that does not. -/
theorem witness_StepFetchesThenExecutes :
    ({ State.reset with pc := 4094 } : State).coreNext = true ∧ State.reset.status = .run ∧
    ({ State.reset with pc := 4094 } : State).pc.toNat ≤ 4094 ∧
    ¬ ({ State.reset with pc := 4095 } : State).pc.toNat ≤ 4094 ∧
    ({ State.reset with schedule := [.core] } : State).coreNext = true := by decide

theorem witness_HostTurnIsTheHostsTransition :
    ({ State.reset with schedule := [.host .tick] } : State).schedule = .host .tick :: [] := by decide

theorem witness_EveryStepAnswers_fault :
    ({ State.reset with status := .fault } : State).status = .fault ∧
    ({ State.reset with status := .fault } : State).coreNext = true := by decide

/-- Each execute fault, just inside and just outside its condition. -/
theorem witness_FaultTable_stack :
    execFault .ret start = some (.stackUnderflow, 0) ∧ execFault .ret { start with sp := 1 } = none ∧
    execFault (.call 0) { start with sp := 16 } = some (.stackOverflow, 0) ∧
    execFault (.call 0) { start with sp := 15 } = none := by decide

theorem witness_FaultTable_data :
    execFault (.drw 0 1 2) { start with i := 4094 } = none ∧
    execFault (.drw 0 1 2) { start with i := 4095 } = some (.dataBounds, 4096) ∧
    execFault (.drw 0 1 0) { start with i := 5000 } = none ∧
    execFault (.ldBVx 0) { start with i := 4093 } = none ∧
    execFault (.ldBVx 0) { start with i := 4094 } = some (.dataBounds, 4096) ∧
    execFault (.ldMemVx 0) { start with i := 4095 } = none ∧
    execFault (.ldMemVx 1) { start with i := 4095 } = some (.dataBounds, 4096) ∧
    execFault (.ldVxMem 0) { start with i := 4095 } = none ∧
    execFault (.ldVxMem 0) { start with i := 5000 } = some (.dataBounds, 5000) := by decide

theorem witness_FaultTable_keys :
    execFault (.skp 4) (regs [(4, 15)] start) = none ∧
    execFault (.skp 4) (regs [(4, 16)] start) = some (.keyRange, 16) ∧
    execFault (.sknp 4) (regs [(4, 15)] start) = none ∧
    execFault (.sknp 4) (regs [(4, 16)] start) = some (.keyRange, 16) := by decide

theorem witness_FaultTable_fetch_and_load :
    4094 < ({ State.reset with pc := 4095 } : State).pc.toNat ∧
    State.reset.status = .run ∧ 3584 < (List.replicate 3585 (0 : Byte)).length :=
  ⟨by decide, rfl, by rw [length_zeros]; decide⟩

theorem witness_FaultStateIsTerminal :
    ({ State.reset with status := .fault } : State).status = .fault ∧ HostEvent.tick ≠ .reset := by decide

/-- 1200 at 0x200. -/
theorem witness_JumpToSelfChangesNothing :
    let s := bytes 0x200 [0x12, 0x00] { State.reset with pc := 0x200 }
    s.ready = true ∧ s.opcodeAt = 0x1#4 ++ (0x200 : Addr) ∧ s.pc = (0x200 : Addr).setWidth 16 := by decide

theorem witness_CallPushesReturnAddress :
    ({ start with sp := 15 } : State).sp.val < 16 ∧ ¬ ({ start with sp := 16 } : State).sp.val < 16 := by decide

theorem witness_RetPopsReturnAddress :
    0 < ({ start with sp := 1 } : State).sp.val ∧ ¬ 0 < start.sp.val := by decide

theorem witness_RetUndoesCall : ({ start with sp := 15 } : State).sp.val < 16 := by decide

/-- Sixteen nested calls from an empty stack, one from a stack of fifteen. -/
theorem witness_NestedCallsReturnInReverse :
    start.sp.val + (List.replicate 16 (0x300 : Addr)).length ≤ 16 ∧
    ({ start with sp := 15 } : State).sp.val + [(0x300 : Addr)].length ≤ 16 := by decide

theorem witness_AddAndSubtractWithFlag : (0 : Reg) ≠ vf ∧ (0xE : Reg) ≠ vf := by decide

theorem witness_ShiftsWithFlag : (0 : Reg) ≠ vf ∧ (0xE : Reg) ≠ vf := by decide

theorem witness_VfAsOperandTable : (0 : Reg) ≠ vf ∧ (0xE : Reg) ≠ vf := by decide

/-- Four rows that end at 4095, four that do not, and no row at all. -/
theorem witness_DrwXorsTheSprite :
    (((4 : Nibble).toNat = 0 ∨ ({ start with i := 4092 } : State).i.toNat + (4 : Nibble).toNat ≤ 4096)) ∧
    ¬ (((4 : Nibble).toNat = 0 ∨ ({ start with i := 4093 } : State).i.toNat + (4 : Nibble).toNat ≤ 4096)) ∧
    ((0 : Nibble).toNat = 0 ∨ ({ start with i := 5000 } : State).i.toNat + (0 : Nibble).toNat ≤ 4096) := by decide

/-- A 1 bit that lands: the leftmost bit of the only row, on the pixel at the origin. -/
theorem witness_DrwXorsTheSprite_lands :
    lands (bytes 0x300 [0x80] { start with i := 0x300 }) 0 1 0 0 0 0 := by
  unfold lands; decide

theorem witness_DrawingTwiceRestoresTheScreen :
    (0 : Reg) ≠ vf ∧ (1 : Reg) ≠ vf ∧
    ((5 : Nibble).toNat = 0 ∨ start.i.toNat + (5 : Nibble).toNat ≤ 4096) ∧
    thenIs (exec (.drw 0 1 5) start) (fun t => (t.reg vf).toNat == 0) = true := by decide

/-- The one-pixel sprite on a lit pixel: both draws run. -/
theorem witness_SecondDrawCollidesIffSpriteHasABit :
    let s := lit 0 0 (bytes 0x300 [0x80] { start with i := 0x300 })
    thenIs (exec (.drw 0 1 1) s) (fun t => t.reg vf == 1 &&
      thenIs (exec (.drw 0 1 1) t) (fun u => u.reg vf == 0)) = true := by decide

theorem witness_KeySkipsTestTheLevel :
    ((regs [(4, 15)] start).reg 4).toNat ≤ 15 ∧ ¬ ((regs [(4, 16)] start).reg 4).toNat ≤ 15 := by decide

theorem witness_KeyWaitSuspendsTheCore :
    ({ start with status := .waitKey } : State).status = .waitKey ∧
    ({ start with status := .waitKey } : State).coreNext = true := by decide

theorem witness_KeyDownCompletesTheWait :
    start.status ≠ .waitKey ∧ ({ start with status := .waitKey } : State).status = .waitKey := by decide

theorem witness_OnlyAMappedKeyOrResetEndsTheWait :
    ({ start with status := .waitKey } : State).status = .waitKey ∧
    leavesWait .tick ∧ leavesWait (.keySet 3 true) ∧ leavesWait (.load []) ∧ leavesWait (.keyMapped none) :=
  ⟨rfl, trivial, trivial, trivial, rfl⟩

theorem witness_KeySetWritesOneKey : start.status ≠ .fault := by decide

theorem witness_TickDecrementsBothTimers :
    start.status ≠ .fault ∧ ({ start with status := .waitKey } : State).status ≠ .fault := by decide

theorem witness_TicksCountDownToZero : ({ start with dt := 2 } : State).status ≠ .fault := by decide

theorem witness_BcdStoresThreeDigits :
    ({ start with i := 4093 } : State).i.toNat + 2 < 4096 ∧
    ¬ ({ start with i := 4094 } : State).i.toNat + 2 < 4096 := by decide

theorem witness_StoreRegistersFromI :
    ({ start with i := 4095 } : State).i.toNat + (0 : Reg).toNat < 4096 ∧
    ¬ ({ start with i := 4095 } : State).i.toNat + (1 : Reg).toNat < 4096 := by decide

theorem witness_LoadRegistersFromI :
    ({ start with i := 4080 } : State).i.toNat + (0xF : Reg).toNat < 4096 ∧
    ¬ ({ start with i := 4081 } : State).i.toNat + (0xF : Reg).toNat < 4096 := by decide

theorem witness_StoreThenLoadRoundTrips :
    ({ start with i := 4080 } : State).i.toNat + (0xF : Reg).toNat < 4096 := by decide

/-- 95_test_vectors.md P9: 63 77 stored over 0x208 and fetched from there. -/
theorem witness_StoredBytesAreFetched :
    let s := regs [(0, 0x63), (1, 0x77)] { start with i := 0x208 }
    s.i.toNat + (1 : Reg).toNat < 4096 ∧ (0 : Reg).toNat < (1 : Reg).toNat ∧
    thenIs (exec (.ldMemVx 1) s) (fun t =>
      decide (({ t with pc := 0x208 } : State).pc.toNat = s.i.toNat + (0 : Reg).toNat) &&
      ({ t with pc := 0x208 } : State).ready &&
      thenIs (step { t with pc := 0x208 }) (fun u => u.reg 3 == 0x77)) = true := by decide

theorem witness_ResetValues : (79 : Nat) < 80 ∧ (80 : Nat) ≤ 80 ∧ (80 : Nat) < 4096 ∧ (4095 : Nat) < 4096 := by decide

theorem witness_LoadCopiesTheProgram :
    ({ State.reset with status := .waitKey } : State).status ≠ .run ∧ State.reset.status = .run ∧
    (List.replicate 3584 (0 : Byte)).length ≤ 3584 ∧ ¬ (List.replicate 3585 (0 : Byte)).length ≤ 3584 ∧
    2 ≤ [0x12#8, 0x00#8].length :=
  ⟨by decide, rfl, by rw [length_zeros], by rw [length_zeros]; decide, by decide⟩

theorem witness_BootRunsTheProgram :
    let s : State := { State.reset with schedule := [.host .reset, .host (.load [0x63, 0xAB])] }
    2 ≤ [0x63#8, 0xAB#8].length ∧ [0x63#8, 0xAB#8].length ≤ 3584 ∧
    s.schedule = .host .reset :: .host (.load [0x63, 0xAB]) :: [] ∧
    thenIs (step s) (fun t => thenIs (step t) (fun u => u.coreNext)) = true := by decide

theorem witness_FontIsAParameter :
    thenIs (step State.reset) (fun t => decide (t.font = State.reset.font)) = true ∧
    (79 : Nat) < 80 ∧ (15 : Nat) < 16 ∧ (4 : Nat) < 5 := by decide

/-- 1200 at 0x200 ends a run, 1FFE at 0xFFE too; 1201 at 0x200 does not, nor a self-jump in WAIT_KEY or FAULT. -/
theorem witness_EndOfRunIsASelfJump :
    let s := bytes 0x200 [0x12, 0x00] { State.reset with pc := 0x200 }
    s.ended = true ∧ (bytes 0xFFE [0x1F, 0xFE] { State.reset with pc := 0xFFE }).ended = true ∧
    (bytes 0x200 [0x12, 0x01] { State.reset with pc := 0x200 }).ended = false ∧
    ({ s with status := .waitKey } : State).ended = false ∧ ({ s with status := .fault } : State).ended = false := by decide

theorem witness_EndedRunStaysEnded :
    let s := bytes 0x200 [0x12, 0x00] { State.reset with pc := 0x200, schedule := [.host .tick, .core] }
    s.ended = true ∧ ∀ e, Turn.host e ∈ s.schedule → e ≠ .reset ∧ ∀ buf, e ≠ .load buf := by
  refine ⟨by decide, fun e he => ?_⟩
  obtain rfl : e = .tick := by simpa [bytes, State.storeBytes, State.setMem] using he
  simp

/-- A no-op at 0x1FE, then the halt at 0x200: the run ends after one step. -/
theorem test_endsAt : ∃ t, EndsAt (bytes 0x200 [0x12, 0x00] { State.reset with pc := 0x1FE }) t :=
  ⟨_, 1, ⟨_, rfl, rfl⟩, by decide⟩

theorem witness_UnreadRegistersDoNotMatter :
    ¬ readsReg (.shr 1 2) 2 ∧ ¬ readsReg (.jpV0 0x300) 3 ∧ ¬ readsReg (.ldMemVx 2) 3 := by
  refine ⟨?_, ?_, ?_⟩ <;> simp [readsReg]

theorem witness_OnlyFlagWritersChangeVf :
    thenIs (exec (.addReg 0 1) (regs [(0, 0xFF), (1, 2)] start))
      (fun t => decide (t.reg vf ≠ (regs [(0, 0xFF), (1, 2)] start).reg vf)) = true := by decide

theorem witness_UnreadDevicesDoNotMatter :
    (∀ x y n, Instr.cls ≠ .drw x y n) ∧ (∀ x, Instr.cls ≠ .skp x ∧ Instr.cls ≠ .sknp x) := by simp

/-- Reset meets the invariant and its step answers a next state. -/
theorem witness_StepKeepsInv : Inv State.reset ∧ thenIs (step State.reset) (fun t => t.pc == 2) = true :=
  ⟨⟨by decide, by decide, by decide, by decide⟩, by decide⟩

end Sys2Proof.Tests
end

section
/-! The scope of the machine (spec 00_scope.md R4, R5): whose turn a step takes, and that it always answers. -/

namespace Sys2Proof.Proofs

open Sys2Proof Sys2Proof.Machine

/-- The equation of `step` at a host's turn (R4). -/
theorem step_of_hostTurn {s : State} {e : HostEvent} {rest : List Turn} (h : s.schedule = .host e :: rest) :
    step s = .next (hostEvent e (s.setSchedule rest)) := by
  simp only [step, h]

/-- The core's Step has a next state unless the machine is in FAULT (R192): every instruction has one, and so do the failing fetch and the hold. -/
theorem coreStep_next_or_halted (s : State) :
    (∃ t, coreStep s = .next t) ∨ (s.status = .fault ∧ coreStep s = .fault (.halted s.fcause)) := by
  obtain ⟨-, -, hexec⟩ | ⟨-, -, hfetch⟩ | ⟨-, hhold⟩ | hhalt := coreStep_cases s
  · exact .inl (hexec ▸ exec_next _ _)
  · exact .inl ⟨_, hfetch⟩
  · exact .inl ⟨_, hhold⟩
  · exact .inr hhalt

/-- Settles O11: the equation of `step` at a host's turn, `setSchedule` being the update the statement writes out. -/
theorem hostTurnIsTheHostsTransition : Obligations.HostTurnIsTheHostsTransition :=
  fun _ _ _ h => step_of_hostTurn h

/-- Settles O12: a host's turn always answers, and the core's turn is `coreStep` with the turn used up, which changes neither the status nor the recorded cause. -/
theorem everyStepAnswers : Obligations.EveryStepAnswers := by
  intro s
  obtain ⟨hcore, hstep⟩ | ⟨e, rest, -, hstep⟩ := step_cases s
  · rw [hstep]
    exact (coreStep_next_or_halted _).imp_right fun ⟨hfault, hhalt⟩ => ⟨hfault, hcore, hhalt⟩
  · exact .inl ⟨_, hstep⟩

end Sys2Proof.Proofs
end

section
/-! What each named update of State leaves as it was, in the words of the statements (`KeptBut`, `RegsBut`): one frame rule per update. -/

namespace Sys2Proof.Claims

open Sys2Proof Sys2Proof.Machine

variable {W : Reg → Prop} {ps qs : List Part} {s t u : State}

/-! ## The relations themselves -/

theorem Kept.refl (s : State) (p : Part) : Kept s s p := by
  cases p <;> simp [Kept]

theorem Kept.symm {p : Part} (h : Kept s t p) : Kept t s p := by
  cases p
  case regs | mem | keys => exact fun a => (h a).symm
  case screen => exact fun r c => (h r c).symm
  case stack => exact ⟨h.1.symm, fun k => (h.2 k).symm⟩
  case record =>
    obtain ⟨hc, hp, ho, hi⟩ := h
    exact ⟨hc.symm, hp.symm, ho.symm, hi.symm⟩
  all_goals exact Eq.symm h

theorem Kept.trans {p : Part} (h : Kept s t p) (h' : Kept t u p) : Kept s u p := by
  cases p
  case regs | mem | keys => exact fun a => (h' a).trans (h a)
  case screen => exact fun r c => (h' r c).trans (h r c)
  case stack => exact ⟨h'.1.trans h.1, fun k => (h'.2 k).trans (h.2 k)⟩
  case record =>
    obtain ⟨hc, hp, ho, hi⟩ := h
    obtain ⟨hc', hp', ho', hi'⟩ := h'
    exact ⟨hc'.trans hc, hp'.trans hp, ho'.trans ho, hi'.trans hi⟩
  all_goals exact Eq.trans h' h

theorem KeptBut.refl (ps : List Part) (s : State) : KeptBut ps s s := fun p _ => Kept.refl s p

theorem KeptBut.trans (h : KeptBut ps s t) (h' : KeptBut ps t u) : KeptBut ps s u :=
  fun p hp => (h p hp).trans (h' p hp)

theorem KeptBut.mono (hsub : ps ⊆ qs) (h : KeptBut ps s t) : KeptBut qs s t :=
  fun p hp => h p fun hps => hp (hsub hps)

/-- The frame of a part that was changed and has come back. -/
theorem KeptBut.restore {p : Part} (hp : Kept s t p) (h : KeptBut (p :: ps) s t) : KeptBut ps s t := by
  intro q hq
  by_cases he : q = p
  · exact he ▸ hp
  · exact h q (by simp [he, hq])

/-- A frame that keeps the registers keeps all but any set of them. -/
theorem KeptBut.regsBut (hregs : .regs ∉ ps) (h : KeptBut ps s t) : RegsBut W ps s t :=
  ⟨fun r _ => h .regs hregs r, h.mono (List.subset_cons_self _ _)⟩

/-- A write to registers after an update of other parts. -/
theorem KeptBut.thenRegs (hregs : .regs ∉ ps) (h : KeptBut ps s t) (h' : RegsBut W [] t u) : RegsBut W ps s u := by
  refine ⟨fun r hr => (h'.1 r hr).trans (h .regs hregs r), ?_⟩
  exact (h.mono (List.subset_cons_self _ _)).trans (h'.2.mono (by simp))

/-- All registers but those of the empty set is all of them. -/
theorem RegsBut.keptBut (h : RegsBut (fun _ => False) ps s t) : KeptBut ps s t := by
  intro p hp
  by_cases hregs : p = .regs
  · exact hregs ▸ fun r => h.1 r not_false
  · exact h.2 p (by simp [hregs, hp])

/-- A part outside the frame's lists, other than the registers, is kept. -/
theorem RegsBut.kept {p : Part} (h : RegsBut W ps s t) (hp : p ∉ ps) (hregs : p ≠ .regs) : Kept s t p :=
  h.2 p (by simp [hregs, hp])

end Sys2Proof.Claims

namespace Sys2Proof.Proofs

open Sys2Proof Sys2Proof.Machine Sys2Proof.Claims

variable (s : State)

theorem keptBut_setPc (w : Word) : KeptBut [.pc] s (s.setPc w) := by
  intro p hp
  have h := Kept.refl s p
  cases p
  case pc => simp at hp
  all_goals exact h

theorem keptBut_setI (w : Word) : KeptBut [.i] s (s.setI w) := by
  intro p hp
  have h := Kept.refl s p
  cases p
  case i => simp at hp
  all_goals exact h

theorem keptBut_setDt (b : Byte) : KeptBut [.dt] s (s.setDt b) := by
  intro p hp
  have h := Kept.refl s p
  cases p
  case dt => simp at hp
  all_goals exact h

theorem keptBut_setSt (b : Byte) : KeptBut [.st] s (s.setSt b) := by
  intro p hp
  have h := Kept.refl s p
  cases p
  case st => simp at hp
  all_goals exact h

theorem keptBut_setScreen (sc : Screen) : KeptBut [.screen] s (s.setScreen sc) := by
  intro p hp
  have h := Kept.refl s p
  cases p
  case screen => simp at hp
  all_goals exact h

theorem keptBut_tookDraw : KeptBut [.draws] s s.tookDraw := by
  intro p hp
  have h := Kept.refl s p
  cases p
  case draws => simp at hp
  all_goals exact h

theorem keptBut_storeBytes (a : Nat) (bs : List Byte) : KeptBut [.mem] s (s.storeBytes a bs) := by
  intro p hp
  have h := Kept.refl s p
  cases p
  case mem => simp at hp
  all_goals exact h

theorem keptBut_enterWait (x : Reg) : KeptBut [.status, .waitReg] s (s.enterWait x) := by
  intro p hp
  have h := Kept.refl s p
  cases p
  case status | waitReg => simp at hp
  all_goals exact h

theorem keptBut_raiseExec (c : FaultCause) (j : Instr) (n : Nat) :
    KeptBut [.status, .record] s (s.raiseExec c j n) := by
  intro p hp
  have h := Kept.refl s p
  cases p
  case status | record => simp at hp
  all_goals exact h

theorem keptBut_setStack (st : Vector Word 16) (sp : Fin 17) : KeptBut [.stack] s { s with stack := st, sp := sp } := by
  intro p hp
  have h := Kept.refl s p
  cases p
  case stack => simp at hp
  all_goals exact h

/-- The frame of a CALL or a RET. -/
theorem keptBut_setStack_setPc (st : Vector Word 16) (sp : Fin 17) (w : Word) :
    KeptBut [.pc, .stack] s (({ s with stack := st, sp := sp } : State).setPc w) :=
  ((keptBut_setStack s st sp).mono (by simp)).trans ((keptBut_setPc _ w).mono (by simp))

theorem keptBut_skipIf (c : Bool) : KeptBut [.pc] s (s.skipIf c) :=
  s.skipIf_eq c ▸ keptBut_setPc s _

/-! ## Writes to registers -/

theorem keptBut_setV (v : Vector Byte 16) : KeptBut [.regs] s { s with v := v } := by
  intro p hp
  have h := Kept.refl s p
  cases p
  case regs => simp at hp
  all_goals exact h

theorem keptBut_setReg (x : Reg) (b : Byte) : KeptBut [.regs] s (s.setReg x b) := keptBut_setV s _

theorem keptBut_loadRegs (x : Reg) : KeptBut [.regs] s (s.loadRegs x) := keptBut_setV s _

theorem regsBut_setReg (x : Reg) (b : Byte) : RegsBut (· = x) [] s (s.setReg x b) :=
  ⟨fun r hr => by rw [State.reg_setReg, if_neg hr], keptBut_setReg s x b⟩

/-- A flag and a result (R9) write VF and the destination. -/
theorem regsBut_setFlagThenReg (f : Byte) (x : Reg) (b : Byte) :
    RegsBut (fun r => r = x ∨ r = vf) [] s (s.setFlagThenReg f x b) := by
  refine ⟨fun r hr => ?_, (keptBut_setReg s vf f).trans (keptBut_setReg _ x b)⟩
  obtain ⟨hx, hf⟩ := not_or.mp hr
  rw [State.reg_setFlagThenReg, if_neg hx, if_neg hf]

theorem regsBut_loadRegs (x : Reg) : RegsBut (fun r => r.toNat ≤ x.toNat) [] s (s.loadRegs x) :=
  ⟨fun r hr => by rw [State.reg_loadRegs, if_neg hr], keptBut_loadRegs s x⟩

end Sys2Proof.Proofs
end

section
/-! The execute stage of every instruction (spec 10_state.md R12, R14; 60_exceptions.md R190, R191): the state after a fault, the state after an instruction that can fault and does not, and from them the frame and PC of all 38. -/

namespace Sys2Proof.Proofs

open Sys2Proof Sys2Proof.Machine Sys2Proof.Claims

variable {s t : State}

/-! ## The data check in the words of the fault table (R49, R190) -/

/-- The instruction's row of the fault table is the data check on `n` bytes from I. -/
def ChecksData (j : Instr) (s : State) (n : Nat) : Prop :=
  execFault j s = if State.inRange s.i.toNat n then none else some (.dataBounds, max s.i.toNat 4096)

theorem checksData_drw (x y : Reg) (n : Nibble) (s : State) : ChecksData (.drw x y n) s n.toNat := by
  have h : (0 < n.toNat ∧ 4096 ≤ s.i.toNat + n.toNat - 1) ↔ ¬ State.inRange s.i.toNat n.toNat = true := by
    rw [State.inRange_iff]; omega
  simp only [ChecksData, execFault, h, ite_not]

theorem checksData_ldBVx (x : Reg) (s : State) : ChecksData (.ldBVx x) s 3 := by
  simp only [ChecksData, execFault, State.inRange_succ, ← not_le, ite_not]

theorem checksData_ldMemVx (x : Reg) (s : State) : ChecksData (.ldMemVx x) s (x.toNat + 1) := by
  simp only [ChecksData, execFault, State.inRange_succ, ← not_le, ite_not]

theorem checksData_ldVxMem (x : Reg) (s : State) : ChecksData (.ldVxMem x) s (x.toNat + 1) := by
  simp only [ChecksData, execFault, State.inRange_succ, ← not_le, ite_not]

theorem ChecksData.inRange {j : Instr} {n : Nat} (hj : ChecksData j s n) (h : execFault j s = none) :
    State.inRange s.i.toNat n = true := by
  by_contra hout
  simp [ChecksData, hout, h] at hj

theorem ChecksData.withData_of_no_fault {j : Instr} {n : Nat} (hj : ChecksData j s n) (h : execFault j s = none)
    (k : State → State) : s.withData j n k = k s := by
  simp only [State.withData, hj.inRange h, if_true]

theorem ChecksData.withData_of_fault {j : Instr} {n m : Nat} {c : FaultCause} (hj : ChecksData j s n)
    (h : execFault j s = some (c, m)) (k : State → State) : s.withData j n k = s.raiseExec c j m := by
  unfold ChecksData at hj
  rw [hj, Option.ite_none_left_eq_some] at h
  obtain ⟨hout, h⟩ := h
  cases h
  exact if_neg hout

/-! ## A fault is the fault entry -/

theorem skipOnKey_of_fault {j : Instr} {x : Reg} {c : FaultCause} {m : Nat}
    (h : (if 15 < (s.reg x).toNat then some (FaultCause.keyRange, (s.reg x).toNat) else none) = some (c, m))
    (want : Bool) : s.skipOnKey j x want = s.raiseExec c j m := by
  rw [Option.ite_none_right_eq_some] at h
  obtain ⟨hlt, h⟩ := h
  cases h
  exact if_neg (Nat.not_le.mpr hlt)

/-- An instruction whose row of the fault table applies enters FAULT with that cause and information (R190, R191). -/
theorem exec_of_fault {j : Instr} {c : FaultCause} {m : Nat} (h : execFault j s = some (c, m)) :
    exec j s = .next (s.raiseExec c j m) := by
  cases j
  case ret =>
    obtain ⟨h0, h⟩ := Option.ite_none_right_eq_some.mp h
    cases h
    simp only [exec, execRet, State.pop?_empty s h0]
  case call nnn =>
    obtain ⟨h16, h⟩ := Option.ite_none_right_eq_some.mp h
    cases h
    simp only [exec, execCall, State.push?_full s _ h16]
  case skp | sknp => exact congrArg _ (skipOnKey_of_fault h _)
  case drw => exact congrArg _ ((checksData_drw ..).withData_of_fault h _)
  case ldBVx => exact congrArg _ ((checksData_ldBVx ..).withData_of_fault h _)
  case ldMemVx => exact congrArg _ ((checksData_ldMemVx ..).withData_of_fault h _)
  case ldVxMem => exact congrArg _ ((checksData_ldVxMem ..).withData_of_fault h _)
  all_goals cases h

/-! ## The instructions that can fault, when they do not -/

theorem exec_ret_of_pos (h : 0 < s.sp.val) :
    exec .ret s = .next (({ s with sp := ⟨s.sp.val - 1, by omega⟩ } : State).setPc
      (s.stackAt ⟨s.sp.val - 1, by omega⟩)) := by
  simp only [exec, execRet, State.pop?_of_pos s h]
  rfl

theorem exec_call_of_lt (nnn : Addr) (h : s.sp.val < 16) :
    exec (.call nnn) s = .next (({ s with stack := s.stack.set s.sp.val s.pc h, sp := ⟨s.sp.val + 1, by omega⟩ } : State).setPc
      (zextAddr nnn)) := by
  simp only [exec, execCall, State.push?_of_lt s _ h]

theorem exec_skp_of_no_fault {x : Reg} (h : execFault (.skp x) s = none) :
    exec (.skp x) s = .next (s.skipIf (s.key ((s.reg x).setWidth 4) == true)) := by
  have hle : (s.reg x).toNat ≤ 15 := by simpa [execFault] using h
  exact congrArg _ (if_pos hle)

theorem exec_sknp_of_no_fault {x : Reg} (h : execFault (.sknp x) s = none) :
    exec (.sknp x) s = .next (s.skipIf (s.key ((s.reg x).setWidth 4) == false)) := by
  have hle : (s.reg x).toNat ≤ 15 := by simpa [execFault] using h
  exact congrArg _ (if_pos hle)

theorem exec_drw_of_no_fault {x y : Reg} {n : Nibble} (h : execFault (.drw x y n) s = none) :
    exec (.drw x y n) s =
      .next ((s.setScreen (s.drawn x y n).1).setReg vf (collisionFlag (s.drawn x y n).2)) :=
  congrArg _ ((checksData_drw x y n s).withData_of_no_fault h _)

theorem exec_ldBVx_of_no_fault {x : Reg} (h : execFault (.ldBVx x) s = none) :
    exec (.ldBVx x) s = .next (s.storeBytes (s.ea 0) (bcdDigits (s.reg x))) :=
  congrArg _ ((checksData_ldBVx x s).withData_of_no_fault h _)

theorem exec_ldMemVx_of_no_fault {x : Reg} (h : execFault (.ldMemVx x) s = none) :
    exec (.ldMemVx x) s = .next (s.storeBytes (s.ea 0) (s.regsUpTo x)) :=
  congrArg _ ((checksData_ldMemVx x s).withData_of_no_fault h _)

theorem exec_ldVxMem_of_no_fault {x : Reg} (h : execFault (.ldVxMem x) s = none) :
    exec (.ldVxMem x) s = .next (s.loadRegs x) :=
  congrArg _ ((checksData_ldVxMem x s).withData_of_no_fault h _)

theorem sp_pos_of_no_fault (h : execFault .ret s = none) : 0 < s.sp.val := by
  have : s.sp.val ≠ 0 := fun h0 => by simp only [execFault, h0, if_true, reduceCtorEq] at h
  omega

theorem sp_lt_of_no_fault {nnn : Addr} (h : execFault (.call nnn) s = none) : s.sp.val < 16 := by
  have : s.sp.val ≠ 16 := fun h0 => by simp only [execFault, h0, if_true, reduceCtorEq] at h
  omega

/-! ## The frame of every instruction (R12) -/

theorem regs_not_mem_writesParts (j : Instr) : .regs ∉ writesParts j := by
  cases j <;> simp [writesParts]

/-- An instruction that does not fault changes only what its "writes" columns name. -/
theorem exec_frame_of_no_fault (j : Instr) (h : execFault j s = none) :
    ∃ t, exec j s = .next t ∧ RegsBut (writesReg j) (writesParts j) s t := by
  have hregs := regs_not_mem_writesParts j
  cases j
  case cls => exact ⟨_, rfl, (keptBut_setScreen _ _).regsBut hregs⟩
  case ret => exact ⟨_, exec_ret_of_pos (sp_pos_of_no_fault h), (keptBut_setStack_setPc _ _ _ _).regsBut hregs⟩
  case call => exact ⟨_, exec_call_of_lt _ (sp_lt_of_no_fault h), (keptBut_setStack_setPc _ _ _ _).regsBut hregs⟩
  case jp | jpV0 => exact ⟨_, rfl, (keptBut_setPc _ _).regsBut hregs⟩
  case seImm | sneImm | seReg | sneReg => exact ⟨_, rfl, (keptBut_skipIf _ _).regsBut hregs⟩
  case skp => exact ⟨_, exec_skp_of_no_fault h, (keptBut_skipIf _ _).regsBut hregs⟩
  case sknp => exact ⟨_, exec_sknp_of_no_fault h, (keptBut_skipIf _ _).regsBut hregs⟩
  case ldImm | addImm | ldReg | orReg | andReg | xorReg | ldVxDt => exact ⟨_, rfl, regsBut_setReg ..⟩
  case addReg | subReg | shr | subnReg | shl => exact ⟨_, rfl, regsBut_setFlagThenReg ..⟩
  case ldI | addIVx | ldFVx => exact ⟨_, rfl, (keptBut_setI _ _).regsBut hregs⟩
  case rnd => exact ⟨_, rfl, (keptBut_tookDraw s).thenRegs hregs (regsBut_setReg ..)⟩
  case drw =>
    exact ⟨_, exec_drw_of_no_fault h, (keptBut_setScreen _ _).thenRegs hregs (regsBut_setReg ..)⟩
  case ldVxK => exact ⟨_, rfl, (keptBut_enterWait _ _).regsBut hregs⟩
  case ldDtVx => exact ⟨_, rfl, (keptBut_setDt _ _).regsBut hregs⟩
  case ldStVx => exact ⟨_, rfl, (keptBut_setSt _ _).regsBut hregs⟩
  case ldBVx => exact ⟨_, exec_ldBVx_of_no_fault h, (keptBut_storeBytes _ _ _).regsBut hregs⟩
  case ldMemVx => exact ⟨_, exec_ldMemVx_of_no_fault h, (keptBut_storeBytes _ _ _).regsBut hregs⟩
  case ldVxMem => exact ⟨_, exec_ldVxMem_of_no_fault h, regsBut_loadRegs ..⟩
  case nop0 | nop8 | nopE | nopF => exact ⟨_, rfl, (KeptBut.refl [] s).regsBut hregs⟩

/-- Settles O54: a fault is the fault entry, and without one each instruction is a few updates, each with its frame rule. -/
theorem everyInstructionFrame : Obligations.EveryInstructionFrame := by
  intro j s
  cases h : execFault j s with
  | some f => exact ⟨_, exec_of_fault h, keptBut_raiseExec _ _ _ _⟩
  | none => exact exec_frame_of_no_fault j h

/-- A register outside the "writes" column keeps its value, fault or not. -/
theorem exec_reg_kept {j : Instr} {r : Reg} (hexec : exec j s = .next t) (hr : ¬ writesReg j r) : t.reg r = s.reg r := by
  obtain ⟨t', hexec', hframe⟩ := everyInstructionFrame j s
  cases hexec.symm.trans hexec'
  split at hframe
  · exact hframe .regs (by decide) r
  · exact hframe.1 r hr

/-- A part outside the "written by" column that no fault writes is kept, fault or not. -/
theorem exec_kept {j : Instr} {p : Part} (hexec : exec j s = .next t) (hp : p ∉ writesParts j) (hregs : p ≠ .regs)
    (hfault : p ∉ [Part.status, Part.record]) : Kept s t p := by
  obtain ⟨t', hexec', hframe⟩ := everyInstructionFrame j s
  cases hexec.symm.trans hexec'
  split at hframe
  · exact hframe p hfault
  · exact hframe.kept hp hregs

/-- Settles O56: a register that changes is in the instruction's "writes" column, and where that names VF the instruction is a flag writer or has VF as its destination. -/
theorem onlyFlagWritersChangeVf : Obligations.OnlyFlagWritersChangeVf := by
  intro j s t hexec hvf
  have hwrites : writesReg j vf := not_imp_comm.mp (exec_reg_kept hexec) hvf
  cases j
  case ldVxMem x =>
    have hle : 15 ≤ x.toNat := hwrites
    have hx : x = vf := by bv_omega
    simp [hx]
  case ldImm | addImm | ldReg | orReg | andReg | xorReg | rnd | ldVxDt => simp [show _ = vf from hwrites.symm]
  case addReg | subReg | shr | subnReg | shl | drw => simp
  all_goals exact hwrites.elim

/-! ## PC after every instruction (R14) -/

theorem pc_skipIf (s : State) (c : Bool) : (s.skipIf c).pc = if c then s.pc + 2 else s.pc := by
  rw [s.skipIf_eq, State.setPc_pc]

/-- An instruction that does not fault leaves PC as R14's table says. -/
theorem exec_pc_of_no_fault (j : Instr) (h : execFault j s = none) :
    ∃ t, exec j s = .next t ∧ t.pc = pcAfter j s := by
  cases j
  case ret =>
    have hpos := sp_pos_of_no_fault h
    exact ⟨_, exec_ret_of_pos hpos, by simp [pcAfter, hpos]⟩
  case call => exact ⟨_, exec_call_of_lt _ (sp_lt_of_no_fault h), rfl⟩
  case seImm | sneImm | seReg | sneReg => exact ⟨_, rfl, by simp [pc_skipIf, pcAfter]⟩
  case skp => exact ⟨_, exec_skp_of_no_fault h, by simp [pc_skipIf, pcAfter]⟩
  case sknp => exact ⟨_, exec_sknp_of_no_fault h, by simp [pc_skipIf, pcAfter]⟩
  case drw => exact ⟨_, exec_drw_of_no_fault h, rfl⟩
  case ldBVx => exact ⟨_, exec_ldBVx_of_no_fault h, rfl⟩
  case ldMemVx => exact ⟨_, exec_ldMemVx_of_no_fault h, rfl⟩
  case ldVxMem => exact ⟨_, exec_ldVxMem_of_no_fault h, rfl⟩
  all_goals exact ⟨_, rfl, rfl⟩

/-- Settles O13: a fault keeps the advanced PC, and without one PC is the table's. -/
theorem pcAfterEveryInstruction : Obligations.PcAfterEveryInstruction := by
  intro j s
  cases h : execFault j s with
  | some f => exact ⟨_, exec_of_fault h, rfl⟩
  | none => exact exec_pc_of_no_fault j h

end Sys2Proof.Proofs
end

section
/-! What an instruction reads (spec 10_state.md R12 and section 1): run on two states that agree on it, an instruction leaves states that agree wherever the two did. First the rule for each update, then the 38 instructions. -/

namespace Sys2Proof.Claims

open Sys2Proof Sys2Proof.Machine Sys2Proof.Proofs

/-! ## Parts that determine a field -/

theorem Kept.stack_eq {s t : State} (h : Kept s t .stack) : t.stack = s.stack :=
  Vector.ext fun k hk => h.2 ⟨k, hk⟩

theorem Kept.screen_eq {s t : State} (h : Kept s t .screen) : t.screen = s.screen :=
  Vector.ext fun r hr => Vector.ext fun c hc => h ⟨r, hr⟩ ⟨c, hc⟩

theorem Kept.loadBytes_eq {s t : State} (h : Kept s t .mem) (a n : Nat) : t.loadBytes a n = s.loadBytes a n :=
  List.map_congr_left fun k _ => h (a + k)

/-! ## Updates of two states that agree -/

namespace RegsBut

variable {W : Reg → Prop} {ps qs : List Part} {s t s' t' : State}

/-- The rule behind the others: two updates with the same frame, on states that agree, whose written registers and parts agree. -/
theorem congr (h : RegsBut W ps s t) (hs : KeptBut qs s s') (ht : KeptBut qs t t')
    (hreg : ∀ r, ¬ W r → t'.reg r = s'.reg r) (hpart : ∀ p ∈ qs, p ∉ .regs :: ps → Kept s' t' p) :
    RegsBut W ps s' t' := by
  refine ⟨hreg, fun p hp => ?_⟩
  by_cases hq : p ∈ qs
  · exact hpart p hq hp
  · exact ((hs p hq).symm.trans (h.2 p hp)).trans (ht p hq)

/-- `congr` for an update of one part other than the registers. -/
theorem congr_part (h : RegsBut W ps s t) {q : Part} (hs : KeptBut [q] s s') (ht : KeptBut [q] t t')
    (hregs : q ≠ .regs) (hpart : q ∉ ps → Kept s' t' q) : RegsBut W ps s' t' := by
  have hkeep : Part.regs ∉ [q] := by simpa using hregs.symm
  refine h.congr hs ht (fun r hr => ?_) fun p hp hps => ?_
  · rw [ht .regs hkeep r, hs .regs hkeep r, h.1 r hr]
  · obtain rfl := List.mem_singleton.mp hp
    exact hpart fun hin => hps (List.mem_cons_of_mem _ hin)

theorem setReg (h : RegsBut W ps s t) {x : Reg} {b b' : Byte} (hb : b' = b) :
    RegsBut W ps (s.setReg x b) (t.setReg x b') :=
  h.congr (keptBut_setReg s x b) (keptBut_setReg t x b')
    (fun r hr => by rw [State.reg_setReg, State.reg_setReg, h.1 r hr, hb]) (by simp)

theorem setFlagThenReg (h : RegsBut W ps s t) {x : Reg} {f f' b b' : Byte} (hf : f' = f) (hb : b' = b) :
    RegsBut W ps (s.setFlagThenReg f x b) (t.setFlagThenReg f' x b') :=
  (h.setReg hf).setReg hb

theorem loadRegs (h : RegsBut W ps s t) (x : Reg) (hi : t.i = s.i) (hmem : Kept s t .mem) :
    RegsBut W ps (s.loadRegs x) (t.loadRegs x) :=
  h.congr (keptBut_loadRegs s x) (keptBut_loadRegs t x)
    (fun r hr => by rw [State.reg_loadRegs, State.reg_loadRegs, hi, hmem, h.1 r hr]) (by simp)

theorem setPc (h : RegsBut W ps s t) {w w' : Word} (hw : w' = w) : RegsBut W ps (s.setPc w) (t.setPc w') :=
  h.congr_part (keptBut_setPc s w) (keptBut_setPc t w') (by decide) fun _ => hw

theorem skipIf (h : RegsBut W ps s t) {c c' : Bool} (hpc : t.pc = s.pc) (hc : c' = c) :
    RegsBut W ps (s.skipIf c) (t.skipIf c') := by
  rw [State.skipIf_eq, State.skipIf_eq]
  exact h.setPc (by rw [hpc, hc])

theorem setStack (h : RegsBut W ps s t) {st st' : Vector Word 16} {sp sp' : Fin 17} (hst : st' = st) (hsp : sp' = sp) :
    RegsBut W ps { s with stack := st, sp := sp } { t with stack := st', sp := sp' } := by
  subst hst hsp
  exact h.congr_part (keptBut_setStack s st' sp') (keptBut_setStack t st' sp') (by decide) fun _ => ⟨rfl, fun _ => rfl⟩

theorem setI (h : RegsBut W ps s t) {w w' : Word} (hw : w' = w) : RegsBut W ps (s.setI w) (t.setI w') :=
  h.congr_part (keptBut_setI s w) (keptBut_setI t w') (by decide) fun _ => hw

theorem setDt (h : RegsBut W ps s t) {b b' : Byte} (hb : b' = b) : RegsBut W ps (s.setDt b) (t.setDt b') :=
  h.congr_part (keptBut_setDt s b) (keptBut_setDt t b') (by decide) fun _ => hb

theorem setSt (h : RegsBut W ps s t) {b b' : Byte} (hb : b' = b) : RegsBut W ps (s.setSt b) (t.setSt b') :=
  h.congr_part (keptBut_setSt s b) (keptBut_setSt t b') (by decide) fun _ => hb

theorem setScreen (h : RegsBut W ps s t) {sc sc' : Screen} (hsc : sc' = sc) :
    RegsBut W ps (s.setScreen sc) (t.setScreen sc') := by
  subst hsc
  exact h.congr_part (keptBut_setScreen s sc') (keptBut_setScreen t sc') (by decide) fun _ _ _ => rfl

theorem tookDraw (h : RegsBut W ps s t) : RegsBut W ps s.tookDraw t.tookDraw :=
  h.congr_part (keptBut_tookDraw s) (keptBut_tookDraw t) (by decide) fun hps =>
    congrArg (· + 1) (h.kept hps (by decide) : t.draws = s.draws)

theorem storeBytes (h : RegsBut W ps s t) {a a' : Nat} {bs bs' : List Byte} (ha : a' = a) (hbs : bs' = bs)
    (hlen : a + bs.length ≤ Config.memSize) : RegsBut W ps (s.storeBytes a bs) (t.storeBytes a' bs') := by
  subst ha hbs
  refine h.congr_part (keptBut_storeBytes s a' bs') (keptBut_storeBytes t a' bs') (by decide) fun hps c => ?_
  have hmem : Kept s t .mem := h.kept hps (by decide)
  rw [State.byteAt_storeBytes _ _ _ hlen, State.byteAt_storeBytes _ _ _ hlen, hmem c]

theorem enterWait (h : RegsBut W ps s t) (x : Reg) : RegsBut W ps (s.enterWait x) (t.enterWait x) :=
  h.congr (keptBut_enterWait s x) (keptBut_enterWait t x) h.1 (by simp [Kept])

theorem raiseExec (h : RegsBut W ps s t) (c : FaultCause) (j : Instr) (n : Nat) (hpc : t.pc = s.pc) :
    RegsBut W ps (s.raiseExec c j n) (t.raiseExec c j n) :=
  h.congr (keptBut_raiseExec s c j n) (keptBut_raiseExec t c j n) h.1 (by simp [Kept, hpc])

/-- The data check passes on both states or on neither. -/
theorem withData (h : RegsBut W ps s t) (j : Instr) (n : Nat) {k : State → State} (hpc : t.pc = s.pc) (hi : t.i = s.i)
    (hk : State.inRange s.i.toNat n = true → RegsBut W ps (k s) (k t)) :
    RegsBut W ps (s.withData j n k) (t.withData j n k) := by
  unfold State.withData
  rw [hi]
  split
  · next hin => exact hk hin
  · exact h.raiseExec _ _ _ hpc

theorem skipOnKey (h : RegsBut W ps s t) (j : Instr) (want : Bool) {x : Reg} (hpc : t.pc = s.pc)
    (hx : t.reg x = s.reg x) (hkeys : Kept s t .keys) :
    RegsBut W ps (s.skipOnKey j x want) (t.skipOnKey j x want) := by
  unfold State.skipOnKey
  rw [hx]
  split
  · exact h.skipIf hpc (by rw [hkeys])
  · exact h.raiseExec _ _ _ hpc

end RegsBut

end Sys2Proof.Claims

namespace Sys2Proof.Proofs

open Sys2Proof Sys2Proof.Machine Sys2Proof.Claims

variable {W : Reg → Prop} {ps : List Part} {s t : State}

/-- The parts other than registers that an instruction reads: the "read by" column of 10_state.md section 1, with PC where a skip or a fault's record takes it. -/
def readsParts : Instr → List Part
  | .ret | .call _ => [.pc, .stack]
  | .seImm _ _ | .sneImm _ _ | .seReg _ _ _ | .sneReg _ _ _ => [.pc]
  | .skp _ | .sknp _ => [.pc, .keys]
  | .rnd _ _ => [.draws]
  | .drw _ _ _ => [.pc, .i, .mem, .screen]
  | .ldVxDt _ => [.dt]
  | .addIVx _ => [.i]
  | .ldBVx _ | .ldMemVx _ => [.pc, .i]
  | .ldVxMem _ => [.pc, .i, .mem]
  | _ => []

/-- A RET of two states that agree on PC and the stack. -/
theorem exec_ret_agrees (h : RegsBut W ps s t) (hpc : t.pc = s.pc) (hstack : Kept s t .stack) :
    ∃ s' t', exec .ret s = .next s' ∧ exec .ret t = .next t' ∧ RegsBut W ps s' t' := by
  have ⟨hsp, hat⟩ := hstack
  by_cases h0 : s.sp.val = 0
  · have hs : execFault .ret s = some (.stackUnderflow, 0) := if_pos h0
    have ht : execFault .ret t = some (.stackUnderflow, 0) := if_pos (hsp ▸ h0)
    exact ⟨_, _, exec_of_fault hs, exec_of_fault ht, h.raiseExec _ _ _ hpc⟩
  · have hs : 0 < s.sp.val := Nat.pos_of_ne_zero h0
    have ht : 0 < t.sp.val := hsp ▸ hs
    refine ⟨_, _, exec_ret_of_pos hs, exec_ret_of_pos ht, (h.setStack hstack.stack_eq ?_).setPc ?_⟩
    · simp only [hsp]
    · simp only [hat, hsp]

/-- A CALL of two states that agree on PC and the stack. -/
theorem exec_call_agrees (nnn : Addr) (h : RegsBut W ps s t) (hpc : t.pc = s.pc) (hstack : Kept s t .stack) :
    ∃ s' t', exec (.call nnn) s = .next s' ∧ exec (.call nnn) t = .next t' ∧ RegsBut W ps s' t' := by
  have hsp := hstack.1
  by_cases h16 : s.sp.val = 16
  · have hs : execFault (.call nnn) s = some (.stackOverflow, 0) := if_pos h16
    have ht : execFault (.call nnn) t = some (.stackOverflow, 0) := if_pos (hsp ▸ h16)
    exact ⟨_, _, exec_of_fault hs, exec_of_fault ht, h.raiseExec _ _ _ hpc⟩
  · have hs : s.sp.val < 16 := by omega
    have ht : t.sp.val < 16 := hsp ▸ hs
    refine ⟨_, _, exec_call_of_lt nnn hs, exec_call_of_lt nnn ht, (h.setStack ?_ ?_).setPc rfl⟩
    · simp only [hstack.stack_eq, hsp, hpc]
    · simp only [hsp]

theorem regs_not_mem_readsParts (j : Instr) : .regs ∉ readsParts j := by
  cases j <;> simp [readsParts]

theorem drawn_agrees {x y : Reg} (n : Nibble) (hx : t.reg x = s.reg x) (hy : t.reg y = s.reg y) (hi : t.i = s.i)
    (hmem : Kept s t .mem) (hscreen : Kept s t .screen) : t.drawn x y n = s.drawn x y n := by
  simp only [State.drawn, hx, hy, hi, hmem.loadBytes_eq, hscreen.screen_eq]

theorem regsUpTo_agrees {x : Reg} (hreg : ∀ r : Reg, r.toNat ≤ x.toNat → t.reg r = s.reg r) :
    t.regsUpTo x = s.regsUpTo x := by
  refine List.ext_getElem (by simp only [State.length_regsUpTo]) fun k hk _ => ?_
  rw [State.length_regsUpTo] at hk
  have hx := x.isLt
  have hk16 : (BitVec.ofNat 4 k).toNat = k := by simp; omega
  have hkx := hreg (BitVec.ofNat 4 k) (by omega)
  simpa [State.regsUpTo, State.reg, hk16] using hkx

theorem ea_agrees (hi : t.i = s.i) (k : Nat) : t.ea k = s.ea k := by
  simp only [State.ea, hi]

theorem ea_zero_of_inRange {n : Nat} (h : State.inRange s.i.toNat (n + 1) = true) :
    s.ea 0 + (n + 1) ≤ Config.memSize := by
  rw [State.inRange_succ] at h
  exact h

/-- An instruction run on two states that agree on the registers and parts it reads leaves states that agree wherever the two did. -/
theorem exec_agrees (j : Instr) (h : RegsBut W ps s t) (hW : ∀ r, readsReg j r → ¬ W r)
    (hps : ∀ p ∈ readsParts j, p ∉ ps) :
    ∃ s' t', exec j s = .next s' ∧ exec j t = .next t' ∧ RegsBut W ps s' t' := by
  have hreg : ∀ r, readsReg j r → t.reg r = s.reg r := fun r hr => h.1 r (hW r hr)
  have hpart : ∀ p ∈ readsParts j, Kept s t p := fun p hp =>
    h.kept (hps p hp) fun he => regs_not_mem_readsParts j (he ▸ hp)
  cases j <;> simp only [readsParts, List.forall_mem_cons, List.not_mem_nil, false_imp_iff,
    implies_true, and_true] at hpart
  case cls => exact ⟨_, _, rfl, rfl, h.setScreen rfl⟩
  case ret => exact exec_ret_agrees h hpart.1 hpart.2
  case call => exact exec_call_agrees _ h hpart.1 hpart.2
  case jp => exact ⟨_, _, rfl, rfl, h.setPc rfl⟩
  case jpV0 => exact ⟨_, _, rfl, rfl, h.setPc (by rw [hreg 0 rfl])⟩
  case seImm x _ | sneImm x _ => exact ⟨_, _, rfl, rfl, h.skipIf hpart (by rw [hreg x rfl])⟩
  case seReg x y _ | sneReg x y _ =>
    exact ⟨_, _, rfl, rfl, h.skipIf hpart (by rw [hreg x (.inl rfl), hreg y (.inr rfl)])⟩
  case skp x | sknp x => exact ⟨_, _, rfl, rfl, h.skipOnKey _ _ hpart.1 (hreg x rfl) hpart.2⟩
  case ldImm => exact ⟨_, _, rfl, rfl, h.setReg rfl⟩
  case addImm x _ => exact ⟨_, _, rfl, rfl, h.setReg (by rw [hreg x rfl])⟩
  case ldReg _ y => exact ⟨_, _, rfl, rfl, h.setReg (hreg y rfl)⟩
  case orReg x y | andReg x y | xorReg x y =>
    exact ⟨_, _, rfl, rfl, h.setReg (by rw [hreg x (.inl rfl), hreg y (.inr rfl)])⟩
  case addReg x y | subReg x y | subnReg x y =>
    have hx := hreg x (.inl rfl)
    have hy := hreg y (.inr rfl)
    exact ⟨_, _, rfl, rfl, h.setFlagThenReg (by rw [hx, hy]) (by rw [hx, hy])⟩
  case shr x _ | shl x _ =>
    have hx := hreg x rfl
    exact ⟨_, _, rfl, rfl, h.setFlagThenReg (by rw [hx]) (by rw [hx])⟩
  case ldI => exact ⟨_, _, rfl, rfl, h.setI rfl⟩
  case addIVx x =>
    have hi : t.i = s.i := hpart
    exact ⟨_, _, rfl, rfl, h.setI (by rw [hi, hreg x rfl])⟩
  case ldFVx x => exact ⟨_, _, rfl, rfl, h.setI (by rw [hreg x rfl])⟩
  case rnd =>
    have hdraws : t.draws = s.draws := hpart
    exact ⟨_, _, rfl, rfl, h.tookDraw.setReg (by rw [hdraws])⟩
  case drw x y n =>
    obtain ⟨hpc, hi, hmem, hscreen⟩ := hpart
    have hdrawn := drawn_agrees n (hreg x (.inl rfl)) (hreg y (.inr rfl)) hi hmem hscreen
    exact ⟨_, _, rfl, rfl, h.withData _ _ hpc hi fun _ =>
      (h.setScreen (by rw [hdrawn])).setReg (by rw [hdrawn])⟩
  case ldVxDt => exact ⟨_, _, rfl, rfl, h.setReg hpart⟩
  case ldVxK x => exact ⟨_, _, rfl, rfl, h.enterWait x⟩
  case ldDtVx x => exact ⟨_, _, rfl, rfl, h.setDt (hreg x rfl)⟩
  case ldStVx x => exact ⟨_, _, rfl, rfl, h.setSt (hreg x rfl)⟩
  case ldBVx x =>
    obtain ⟨hpc, hi⟩ := hpart
    exact ⟨_, _, rfl, rfl, h.withData _ _ hpc hi fun hin =>
      h.storeBytes (ea_agrees hi 0) (by rw [hreg x rfl]) (ea_zero_of_inRange hin)⟩
  case ldMemVx x =>
    obtain ⟨hpc, hi⟩ := hpart
    exact ⟨_, _, rfl, rfl, h.withData _ _ hpc hi fun hin =>
      h.storeBytes (ea_agrees hi 0) (regsUpTo_agrees hreg) (s.length_regsUpTo x ▸ ea_zero_of_inRange hin)⟩
  case ldVxMem x =>
    obtain ⟨hpc, hi, hmem⟩ := hpart
    exact ⟨_, _, rfl, rfl, h.withData _ _ hpc hi fun _ => h.loadRegs x hi hmem⟩
  case nop0 | nop8 | nopE | nopF => exact ⟨_, _, rfl, rfl, h⟩

/-- Settles O55: the two states agree on every register but the one changed, which the instruction does not read. -/
theorem unreadRegistersDoNotMatter : Obligations.UnreadRegistersDoNotMatter :=
  fun j s r b hr => exec_agrees j (regsBut_setReg s r b) (fun _ hreads he => hr (he ▸ hreads)) (by simp)

/-! ## The parts no instruction, or only one kind of instruction, reads (R17, R20, R21, R205) -/

/-- Two states that differ in parts an instruction does not read: the next states differ in no other part. -/
theorem exec_agrees_of_unread {j : Instr} (h : KeptBut ps s t) (hregs : .regs ∉ ps)
    (hps : ∀ p ∈ readsParts j, p ∉ ps) :
    ∃ s' t', exec j s = .next s' ∧ exec j t = .next t' ∧ KeptBut ps s' t' := by
  obtain ⟨s', t', hs, ht, hkept⟩ := exec_agrees j (h.regsBut (W := fun _ => False) hregs) (by simp) hps
  exact ⟨s', t', hs, ht, hkept.keptBut⟩

theorem screen_unread {j : Instr} (h : ∀ x y n, j ≠ .drw x y n) : .screen ∉ readsParts j := by
  cases j
  case drw x y n => exact absurd rfl (h x y n)
  all_goals simp [readsParts]

theorem keys_unread {j : Instr} (h : ∀ x, j ≠ .skp x ∧ j ≠ .sknp x) : .keys ∉ readsParts j := by
  cases j
  case skp x => exact absurd rfl (h x).1
  case sknp x => exact absurd rfl (h x).2
  all_goals simp [readsParts]

theorem soundTimer_waitReg_unread (j : Instr) : .st ∉ readsParts j ∧ .waitReg ∉ readsParts j := by
  cases j <;> simp [readsParts]

theorem keptBut_keys (s : State) (ks : Vector Bool 16) : KeptBut [.keys] s { s with keys := ks } := by
  intro p hp
  have h := Kept.refl s p
  cases p
  case keys => simp at hp
  all_goals exact h

theorem keptBut_soundTimer_waitReg (s : State) (b : Byte) (w : Reg) :
    KeptBut [.st, .waitReg] s { s with st := b, waitReg := w } := by
  intro p hp
  have h := Kept.refl s p
  cases p
  case st | waitReg => simp at hp
  all_goals exact h

/-- Settles O57: each replaced part is outside what the instruction reads. -/
theorem unreadDevicesDoNotMatter : Obligations.UnreadDevicesDoNotMatter := by
  refine fun j s => ⟨fun sc hj => ?_, fun ks hj => ?_, fun b w => ?_⟩
  · refine exec_agrees_of_unread (keptBut_setScreen s sc) (by decide) fun p hp hps => ?_
    exact screen_unread hj (List.mem_singleton.mp hps ▸ hp)
  · refine exec_agrees_of_unread (keptBut_keys s ks) (by decide) fun p hp hps => ?_
    exact keys_unread hj (List.mem_singleton.mp hps ▸ hp)
  · refine exec_agrees_of_unread (keptBut_soundTimer_waitReg s b w) (by decide) fun p hp hps => ?_
    obtain ⟨hst, hwait⟩ := soundTimer_waitReg_unread j
    obtain rfl | rfl : p = .st ∨ p = .waitReg := by simpa using hps
    · exact hst hp
    · exact hwait hp

end Sys2Proof.Proofs
end

section
/-! The stack is last in, first out (spec 10_state.md R18; 40_control_flow.md R83): a CALL, a run that keeps PC and the entries it found, and a RET come back to where the CALL was. -/

namespace Sys2Proof.Proofs

open Sys2Proof Sys2Proof.Machine Sys2Proof.Claims

variable {s t : State}

theorem execAll_append (js ks : List Instr) (s : State) :
    execAll (js ++ ks) s = (execAll js s).bind (execAll ks) := by
  induction js generalizing s with
  | nil => rfl
  | cons j js ih =>
    obtain ⟨t, ht⟩ := exec_next j s
    simp only [List.cons_append, execAll, ht, ih]

theorem execAll_cons {j : Instr} {js : List Instr} (h : exec j s = .next t) :
    execAll (j :: js) s = execAll js t := by
  simp only [execAll, h]

/-- `t` is back where `s` was: PC, the depth, the entries below it, and every part but the stack. -/
structure BackAt (s t : State) : Prop where
  sp : t.sp = s.sp
  below : ∀ k : Fin 16, k.val < s.sp.val → t.stackAt k = s.stackAt k
  kept : KeptBut [.stack] s t

/-- A CALL with room on the stack: one deeper, the advanced PC in the entry at SP. -/
theorem stack_after_call {nnn : Addr} (hs : s.sp.val < 16) (hcall : exec (.call nnn) s = .next t) :
    t.sp.val = s.sp.val + 1 ∧ (∀ k : Fin 16, t.stackAt k = if s.sp.val = k.val then s.pc else s.stackAt k) ∧
      KeptBut [.pc, .stack] s t := by
  cases (exec_call_of_lt nnn hs).symm.trans hcall
  exact ⟨rfl, fun k => s.stackAt_set k s.pc _ hs, keptBut_setStack_setPc _ _ _ _⟩

/-- A RET at depth d + 1: depth d, PC from entry d, all entries as they were. -/
theorem exec_ret_at {d : Fin 16} (hd : s.sp.val = d.val + 1) :
    ∃ t, exec .ret s = .next t ∧ t.sp.val = d.val ∧ t.pc = s.stackAt d ∧ (∀ k, t.stackAt k = s.stackAt k) ∧
      KeptBut [.pc, .stack] s t := by
  refine ⟨_, exec_ret_of_pos (by omega), ?_, ?_, fun _ => rfl, keptBut_setStack_setPc _ _ _ _⟩
  · show s.sp.val - 1 = d.val
    omega
  · simp [hd]

/-- What stands between a CALL and its RET may be any run that comes back. -/
theorem exec_ret_after_call {nnn : Addr} {u : State} (hs : s.sp.val < 16) (hcall : exec (.call nnn) s = .next t)
    (hback : BackAt t u) : ∃ v, exec .ret u = .next v ∧ BackAt s v := by
  obtain ⟨hsp, hat, hkept⟩ := stack_after_call hs hcall
  obtain ⟨v, hret, hvsp, hvpc, hvat, hvkept⟩ := exec_ret_at (d := ⟨s.sp.val, hs⟩) (hback.sp ▸ hsp)
  have hentry (k : Fin 16) (hk : k.val ≤ s.sp.val) : u.stackAt k = if s.sp.val = k.val then s.pc else s.stackAt k :=
    (hback.below k (by omega)).trans (hat k)
  have hpc : v.pc = s.pc := by rw [hvpc, hentry _ le_rfl, if_pos rfl]
  refine ⟨v, hret, Fin.ext hvsp, fun k hk => ?_, KeptBut.restore (p := .pc) hpc ?_⟩
  · rw [hvat, hentry k hk.le, if_neg hk.ne']
  · exact (hkept.trans (hback.kept.mono (by simp))).trans hvkept

theorem calls_rets_back (targets : List Addr) (s : State) (h : s.sp.val + targets.length ≤ 16) :
    ∃ u, execAll (targets.map .call ++ List.replicate targets.length .ret) s = some u ∧ BackAt s u := by
  induction targets generalizing s with
  | nil => exact ⟨s, rfl, rfl, fun _ _ => rfl, KeptBut.refl _ s⟩
  | cons nnn targets ih =>
    rw [List.length_cons] at h
    have hs : s.sp.val < 16 := by omega
    obtain ⟨t, hcall⟩ := exec_next (.call nnn) s
    have hsp := (stack_after_call hs hcall).1
    obtain ⟨u, hrun, hback⟩ := ih t (by omega)
    obtain ⟨v, hret, hv⟩ := exec_ret_after_call hs hcall hback
    refine ⟨v, ?_, hv⟩
    rw [List.map_cons, List.length_cons, List.replicate_succ', List.cons_append, execAll_cons hcall,
      ← List.append_assoc, execAll_append, hrun]
    exact execAll_cons hret

/-- Settles O22, by induction on the list of targets. -/
theorem nestedCallsReturnInReverse : Obligations.NestedCallsReturnInReverse := by
  intro targets s h
  obtain ⟨u, hrun, hback⟩ := calls_rets_back targets s h
  exact ⟨u, hrun, hback.kept .pc (by decide), hback.sp, hback.below, hback.kept⟩

end Sys2Proof.Proofs
end

section
/-! Reset, FONT and the invariant (spec 10_state.md R15, R18, R25, R27, R28; 20_memory.md R40, R46, R47): the values after Reset, what the host's transitions can do, and what every transition keeps. -/

namespace Sys2Proof.Proofs

open Sys2Proof Sys2Proof.Machine Sys2Proof.Claims

variable {j : Instr} {s t : State}

/-! ## The state after Reset (R28) -/

theorem reg_resetWith (f : Config.Font) (r : Reg) : (State.resetWith f).reg r = 0 := by
  simp [State.reg]

theorem stackAt_resetWith (f : Config.Font) (k : Fin 16) : (State.resetWith f).stackAt k = 0 := by
  simp [State.stackAt]

theorem key_resetWith (f : Config.Font) (k : Key) : (State.resetWith f).key k = false := by
  simp [State.key]

theorem byteAt_resetWith_font (f : Config.Font) (a : Nat) (h : a < 80) : (State.resetWith f).byteAt a = f[a] := by
  rw [State.byteAt_resetWith, dif_pos h]

/-- Settles O47: registers, stack, keys and pixels entry by entry, memory by what an unwritten address reads as, the rest by definition. -/
theorem resetValues : Obligations.ResetValues := by
  intro f
  refine ⟨rfl, reg_resetWith f, rfl, rfl, rfl, rfl, rfl, stackAt_resetWith f, byteAt_resetWith_font f, fun a ha _ => ?_,
    Screen.get_blank, key_resetWith f, rfl, rfl, rfl, rfl, rfl, rfl⟩
  rw [State.byteAt_resetWith, dif_neg (Nat.not_lt.mpr ha)]

/-! ## What the host's transitions can do (R200 to R202, R220, R224) -/

theorem keyMapped_cases (k : Option Key) (s : State) :
    keyMapped k s = s ∨ (s.status = .waitKey ∧ ∃ key, keyMapped k s = s.completeWait key) := by
  unfold keyMapped
  split
  · next hwait =>
    cases k with
    | none => exact .inl rfl
    | some key => exact .inr ⟨hwait, key, rfl⟩
  · exact .inl rfl

/-- A host transition has no effect, or counts down, sets a key, completes the wait, resets, loads, or raises LoadSize. -/
theorem hostEvent_cases (e : HostEvent) (s : State) :
    hostEvent e s = s ∨
    (∃ d b, hostEvent e s = (s.setDt d).setSt b) ∨
    (∃ k b, hostEvent e s = s.setKey k b) ∨
    (s.status = .waitKey ∧ ∃ k, hostEvent e s = s.completeWait k) ∨
    hostEvent e s = resetEvent s ∨
    (∃ buf, hostEvent e s = (s.storeBytes Config.progBase buf).setPc 0x200) ∨
    (∃ n, hostEvent e s = s.raiseLoad n) := by
  cases e with
  | tick =>
    simp only [hostEvent, tick]
    split
    · exact .inl rfl
    · exact .inr (.inl ⟨_, _, rfl⟩)
  | keySet k b =>
    simp only [hostEvent, keySet]
    split
    · exact .inl rfl
    · exact .inr (.inr (.inl ⟨_, _, rfl⟩))
  | keyDown sym => exact (keyMapped_cases (Config.keymap sym) s).imp_right fun h => .inr (.inr (.inl h))
  | keyMapped k => exact (keyMapped_cases k s).imp_right fun h => .inr (.inr (.inl h))
  | reset => exact .inr (.inr (.inr (.inr (.inl rfl))))
  | load buf =>
    simp only [hostEvent, load]
    split
    · split
      · exact .inr (.inr (.inr (.inr (.inr (.inl ⟨buf, rfl⟩)))))
      · exact .inr (.inr (.inr (.inr (.inr (.inr ⟨_, rfl⟩)))))
    · exact .inl rfl

/-! ## FONT is a parameter (R27) -/

theorem exec_font (hexec : exec j s = .next t) : t.font = s.font := by
  refine exec_kept (p := .font) hexec ?_ (by decide) (by decide)
  cases j <;> simp [writesParts]

theorem hostEvent_font (e : HostEvent) (s : State) : (hostEvent e s).font = s.font := by
  obtain h | ⟨_, _, h⟩ | ⟨_, _, h⟩ | ⟨-, _, h⟩ | h | ⟨_, h⟩ | ⟨_, h⟩ := hostEvent_cases e s <;> rw [h] <;> rfl

theorem coreStep_font (hstep : coreStep s = .next t) : t.font = s.font := by
  obtain ⟨-, -, h⟩ | ⟨-, -, h⟩ | ⟨-, h⟩ | ⟨-, h⟩ := coreStep_cases s <;> rw [h] at hstep
  · exact exec_font (s := s.afterFetch) hstep
  · cases hstep
    rfl
  · cases hstep
    rfl
  · cases hstep

theorem step_font (hstep : step s = .next t) : t.font = s.font := by
  obtain ⟨-, h⟩ | ⟨e, rest, -, h⟩ := step_cases s <;> rw [h] at hstep
  · exact coreStep_font (s := s.setSchedule s.schedule.tail) hstep
  · cases hstep
    exact hostEvent_font e _

/-- A byte's glyph address is five times the byte, and no byte's address wraps (R169). -/
theorem toNat_glyphAddr (b : Byte) : (glyphAddr b).toNat = 5 * b.toNat := by
  simp only [glyphAddr, Config.fontBase, Config.glyphHeight, BitVec.toNat_ofNat]
  have := b.isLt
  omega

/-- Settles O51: no transition writes FONT, Reset makes memory read it at 0 to 79, and LD F,Vx changes only I. -/
theorem fontIsAParameter : Obligations.FontIsAParameter := by
  refine ⟨fun s t => step_font, fun s a ha => byteAt_resetWith_font s.font a ha, fun s x d k hd hk => ?_⟩
  refine ⟨_, rfl, ?_⟩
  have hi : (glyphAddr (((hostEvent .reset s).setReg x (BitVec.ofNat 8 d)).reg x)).toNat = 5 * d := by
    rw [State.reg_setReg_self, toNat_glyphAddr, BitVec.toNat_ofNat]
    omega
  refine ⟨hi, ?_⟩
  rw [State.setI_i, hi]
  exact byteAt_resetWith_font s.font _ (by omega)

/-! ## The invariant, on each kind of update -/

theorem inv_resetWith (f : Config.Font) : Inv (State.resetWith f) where
  memCanonical := rfl
  pcBounded := Nat.zero_le _
  stackBounded k := by rw [stackAt_resetWith]; exact Nat.zero_le _
  causeRecorded := by simp

/-- Settles O58. -/
theorem invAtReset : Obligations.InvAtReset := inv_resetWith defaultFont

theorem inv_raise (h : Inv s) {c : FaultCause} (hc : c ≠ .none) (fpc fop finfo : Word) :
    Inv (s.raise c fpc fop finfo) :=
  ⟨h.memCanonical, h.pcBounded, h.stackBounded, iff_of_true rfl hc⟩

theorem inv_hostEvent (e : HostEvent) (h : Inv s) : Inv (hostEvent e s) := by
  obtain he | ⟨_, _, he⟩ | ⟨_, _, he⟩ | ⟨hwait, _, he⟩ | he | ⟨buf, he⟩ | ⟨_, he⟩ := hostEvent_cases e s <;> rw [he]
  · exact h
  · exact ⟨h.memCanonical, h.pcBounded, h.stackBounded, h.causeRecorded⟩
  · exact ⟨h.memCanonical, h.pcBounded, h.stackBounded, h.causeRecorded⟩
  · have hcause : ¬ s.fcause ≠ .none := h.causeRecorded.not.mp (by simp [hwait])
    exact ⟨h.memCanonical, h.pcBounded, h.stackBounded, iff_of_false (by simp) hcause⟩
  · obtain ⟨hmem, hpc, hstack, hcause⟩ := inv_resetWith s.font
    exact ⟨hmem, hpc, hstack, hcause⟩
  · exact ⟨Memory.wf_store _ _ _ _ h.memCanonical, (by decide : (0x200 : Word).toNat ≤ pcMax), h.stackBounded,
      h.causeRecorded⟩
  · exact inv_raise h (by decide) _ _ _

/-! ## The invariant under an instruction -/

theorem execFault_cause_ne_none {c : FaultCause} {n : Nat} (h : execFault j s = some (c, n)) : c ≠ .none := by
  rintro rfl
  cases j <;> simp [execFault] at h

theorem skip_target_le {w : Word} (hw : w.toNat ≤ 4096) (c : Prop) [Decidable c] :
    (if c then w + 2 else w).toNat ≤ pcMax := by
  unfold pcMax
  split <;> bv_omega

/-- The bound on PC (R15): the largest target is that of Bnnn. -/
theorem pcAfter_le (h : Inv s) (hpc : s.pc.toNat ≤ 4096) (j : Instr) : (pcAfter j s).toNat ≤ pcMax := by
  cases j
  case ret =>
    simp only [pcAfter]
    split
    · exact h.stackBounded _
    · exact h.pcBounded
  case jp nnn | call nnn =>
    have := nnn.isLt
    simp only [pcMax, pcAfter, BitVec.toNat_setWidth]
    omega
  case jpV0 nnn =>
    have := nnn.isLt
    have := (s.reg 0).isLt
    simp only [pcMax, pcAfter, BitVec.toNat_add, BitVec.toNat_setWidth]
    omega
  case seImm | sneImm | seReg | sneReg | skp | sknp => exact skip_target_le hpc _
  all_goals exact h.pcBounded

theorem mem_skipIf (s : State) (c : Bool) : (s.skipIf c).mem = s.mem := by
  rw [s.skipIf_eq, State.setPc_mem]

/-- An instruction that does not fault leaves MEM or stores bytes in it. -/
theorem exec_mem_cases (hf : execFault j s = none) :
    ∃ t, exec j s = .next t ∧ (t.mem = s.mem ∨ ∃ a bs, t.mem = s.mem.store s.font a bs) := by
  cases j
  case ret => exact ⟨_, exec_ret_of_pos (sp_pos_of_no_fault hf), .inl rfl⟩
  case call => exact ⟨_, exec_call_of_lt _ (sp_lt_of_no_fault hf), .inl rfl⟩
  case seImm | sneImm | seReg | sneReg => exact ⟨_, rfl, .inl (mem_skipIf ..)⟩
  case skp => exact ⟨_, exec_skp_of_no_fault hf, .inl (mem_skipIf ..)⟩
  case sknp => exact ⟨_, exec_sknp_of_no_fault hf, .inl (mem_skipIf ..)⟩
  case drw => exact ⟨_, exec_drw_of_no_fault hf, .inl rfl⟩
  case ldBVx => exact ⟨_, exec_ldBVx_of_no_fault hf, .inr ⟨_, _, rfl⟩⟩
  case ldMemVx => exact ⟨_, exec_ldMemVx_of_no_fault hf, .inr ⟨_, _, rfl⟩⟩
  case ldVxMem => exact ⟨_, exec_ldVxMem_of_no_fault hf, .inl rfl⟩
  all_goals exact ⟨_, rfl, .inl rfl⟩

theorem exec_memCanonical (h : s.mem.wf s.font = true) (hf : execFault j s = none) (hexec : exec j s = .next t) :
    t.mem.wf t.font = true := by
  obtain ⟨t', hexec', hmem⟩ := exec_mem_cases hf
  cases hexec.symm.trans hexec'
  rw [exec_font hexec]
  obtain hsame | ⟨a, bs, hstore⟩ := hmem
  · rwa [hsame]
  · rw [hstore]
    exact Memory.wf_store _ _ _ _ h

/-- A CALL puts the advanced PC on the stack; no other instruction writes an entry. -/
theorem exec_stackAt_cases (hf : execFault j s = none) (hexec : exec j s = .next t) (k : Fin 16) :
    t.stackAt k = s.stackAt k ∨ t.stackAt k = s.pc := by
  by_cases hj : .stack ∈ writesParts j
  · cases j
    case ret =>
      cases (exec_ret_of_pos (sp_pos_of_no_fault hf)).symm.trans hexec
      exact .inl rfl
    case call =>
      obtain ⟨-, hat, -⟩ := stack_after_call (sp_lt_of_no_fault hf) hexec
      rw [hat]
      split
      · exact .inr rfl
      · exact .inl rfl
    all_goals simp [writesParts] at hj
  · exact .inl ((exec_kept (p := .stack) hexec hj (by decide) (by decide)).2 k)

/-- Without a fault the status stays or becomes WAIT_KEY, and the record stays. -/
theorem exec_status_of_no_fault (hf : execFault j s = none) (hexec : exec j s = .next t) :
    (t.status = s.status ∨ t.status = .waitKey) ∧ t.fcause = s.fcause := by
  obtain ⟨t', hexec', hframe⟩ := exec_frame_of_no_fault j hf
  cases hexec.symm.trans hexec'
  refine ⟨?_, (hframe.kept (p := .record) (by cases j <;> simp [writesParts]) (by decide)).1⟩
  by_cases hj : .status ∈ writesParts j
  · cases j
    case ldVxK => cases hexec; exact .inr rfl
    all_goals simp [writesParts] at hj
  · exact .inl (hframe.kept (p := .status) hj (by decide))

/-- An instruction in RUN, with PC just after a word of memory, keeps the invariant: a fault records its cause, and without one each part is bounded by its own lemma. -/
theorem inv_exec (h : Inv s) (hrun : s.status = .run) (hpc : s.pc.toNat ≤ 4096) (hexec : exec j s = .next t) :
    Inv t := by
  cases hf : execFault j s with
  | some f =>
    cases (exec_of_fault hf).symm.trans hexec
    exact inv_raise h (execFault_cause_ne_none hf) _ _ _
  | none =>
    have hcause : ¬ s.fcause ≠ .none := h.causeRecorded.not.mp (by simp [hrun])
    obtain ⟨hstatus, hrecord⟩ := exec_status_of_no_fault hf hexec
    refine ⟨exec_memCanonical h.memCanonical hf hexec, ?_, fun k => ?_, iff_of_false ?_ (hrecord ▸ hcause)⟩
    · obtain ⟨t', hexec', hafter⟩ := exec_pc_of_no_fault j hf
      cases hexec.symm.trans hexec'
      exact hafter ▸ pcAfter_le h hpc j
    · obtain hk | hk := exec_stackAt_cases hf hexec k <;> rw [hk]
      · exact h.stackBounded k
      · exact h.pcBounded
    · obtain hst | hst := hstatus <;> simp [hst, hrun]

/-! ## The invariant under every step -/

theorem inv_setSchedule (h : Inv s) (rest : List Turn) : Inv (s.setSchedule rest) :=
  ⟨h.memCanonical, h.pcBounded, h.stackBounded, h.causeRecorded⟩

/-- The fetch of a word of memory leaves PC at most 4096 (R41). -/
theorem pc_afterFetch_le (h : s.canFetch = true) : s.afterFetch.pc.toNat ≤ 4096 := by
  have hlt : s.pc.toNat + 1 < 4096 := of_decide_eq_true h
  rw [State.afterFetch_pc]
  bv_omega

theorem inv_coreStep (h : Inv s) (hstep : coreStep s = .next t) : Inv t := by
  obtain ⟨hrun, hfetch, hc⟩ | ⟨-, -, hc⟩ | ⟨-, hc⟩ | ⟨-, hc⟩ := coreStep_cases s <;> rw [hc] at hstep
  · have hpc := pc_afterFetch_le hfetch
    have hafter : Inv s.afterFetch := ⟨h.memCanonical, hpc.trans (by decide), h.stackBounded, h.causeRecorded⟩
    exact inv_exec hafter hrun hpc hstep
  · cases hstep
    exact inv_raise h (by decide) _ _ _
  · cases hstep
    exact h
  · cases hstep

/-- Settles O59: the turn is used up, and then the core's Step or the host's transition keeps the invariant. -/
theorem stepKeepsInv : Obligations.StepKeepsInv := by
  intro s t h hstep
  obtain ⟨-, hc⟩ | ⟨e, rest, -, hc⟩ := step_cases s <;> rw [hc] at hstep
  · exact inv_coreStep (inv_setSchedule h _) hstep
  · cases hstep
    exact inv_hostEvent e (inv_setSchedule h rest)

end Sys2Proof.Proofs
end

section
/-! The fetch and the memory it shares with data (spec 20_memory.md R41, R52, R54): the two ways a fetch goes, at the core's Step and at its turn, and a store followed by the fetch of the bytes stored. -/

namespace Sys2Proof.Proofs

open Sys2Proof Sys2Proof.Machine Sys2Proof.Claims

variable {s t : State}

/-! ## The fault entry (R191) -/

theorem keptBut_raise (s : State) (c : FaultCause) (fpc fop finfo : Word) :
    KeptBut [.status, .record] s (s.raise c fpc fop finfo) := by
  intro p hp
  have h := Kept.refl s p
  cases p
  case status | record => simp at hp
  all_goals exact h

/-- `raise` is the fault entry, whatever number its information word stands for. -/
theorem faultEntered_raise (s : State) (c : FaultCause) (fpc fop : Word) {finfo : Word} {n : Nat}
    (hn : finfo.toNat = n % 65536) : FaultEntered s (s.raise c fpc fop finfo) c fpc fop n :=
  ⟨rfl, rfl, rfl, rfl, hn, keptBut_raise s c fpc fop finfo⟩

theorem faultEntered_raiseFetch (s : State) : FaultEntered s s.raiseFetch .fetchBounds s.pc 0 s.pc.toNat :=
  faultEntered_raise s .fetchBounds s.pc 0 (Nat.mod_eq_of_lt s.pc.isLt).symm

/-! ## The fetch (R41) -/

theorem canFetch_iff (s : State) : s.canFetch = true ↔ s.pc.toNat ≤ 4094 := by
  rw [State.canFetch, decide_eq_true_iff, Config.memSize]
  omega

theorem toNat_opcodeAt (s : State) :
    s.opcodeAt.toNat = (s.byteAt s.pc.toNat).toNat * 256 + (s.byteAt (s.pc.toNat + 1)).toNat :=
  toNat_wordOfBytes _ _

theorem coreStep_of_canFetch (hrun : s.status = .run) (hfetch : s.canFetch = true) :
    coreStep s = exec (decodeWord s.opcodeAt) s.afterFetch := by
  simp only [coreStep, hrun, hfetch, if_true]

theorem coreStep_of_not_canFetch (hrun : s.status = .run) (hfetch : ¬ s.canFetch = true) :
    coreStep s = .next s.raiseFetch := by
  simp only [coreStep, hrun, hfetch, Bool.false_eq_true, if_false]

/-- Settles O9: the word at PC is the opcode, `afterFetch` the state it executes in, and `raiseFetch` the fault entry. -/
theorem fetchThenExecute : Obligations.FetchThenExecute := by
  intro s hrun
  split
  · next hpc =>
    exact ⟨s.opcodeAt, toNat_opcodeAt s, coreStep_of_canFetch hrun ((canFetch_iff s).mpr hpc)⟩
  · next hpc =>
    exact ⟨s.raiseFetch, coreStep_of_not_canFetch hrun ((canFetch_iff s).not.mpr hpc), faultEntered_raiseFetch s⟩

/-- Settles O10: the core's turn is its Step on the state with that turn used up. -/
theorem stepFetchesThenExecutes : Obligations.StepFetchesThenExecutes := by
  intro s hcore hrun
  rw [step_coreNext hcore]
  exact fetchThenExecute (s.setSchedule s.schedule.tail) hrun

/-! ## Code and data are one memory (R52, R54) -/

theorem byteAt_of_mem (hmem : t.mem = s.mem) (hfont : t.font = s.font) (a : Nat) : t.byteAt a = s.byteAt a := by
  rw [State.byteAt, State.byteAt, hmem, hfont]

/-- A block store in range puts each stored register at I plus its number (R171). -/
theorem byteAt_storeBytes_regsUpTo {x r : Reg} (hx : s.i.toNat + x.toNat < 4096) (hr : r.toNat ≤ x.toNat) :
    (s.storeBytes (s.ea 0) (s.regsUpTo x)).byteAt (s.i.toNat + r.toNat) = s.reg r := by
  have hlen := s.length_regsUpTo x
  have hea : s.ea 0 = s.i.toNat := rfl
  rw [hea, State.byteAt_storeBytes _ _ _ (by rw [hlen]; exact hx), if_pos (by omega), Nat.add_sub_cancel_left,
    State.getD_regsUpTo _ _ _ hr]

/-- Settles O46: the fetch reads the two bytes where the block store put `Vk` and `V(k+1)`. -/
theorem storedBytesAreFetched : Obligations.StoredBytesAreFetched := by
  intro x k s hx hk
  refine ⟨_, exec_ldMemVx_of_no_fault (if_neg (Nat.not_le.mpr hx)), fun u hmem hfont hpc hready =>
    ⟨u.opcodeAt, ?_, step_of_ready hready⟩⟩
  have hnext : (k + 1).toNat = k.toNat + 1 := by bv_omega
  have hhigh : u.byteAt u.pc.toNat = s.reg k := by
    rw [hpc, byteAt_of_mem hmem hfont, byteAt_storeBytes_regsUpTo hx hk.le]
  have hlow : u.byteAt (u.pc.toNat + 1) = s.reg (k + 1) := by
    rw [hpc, byteAt_of_mem hmem hfont, Nat.add_assoc, ← hnext, byteAt_storeBytes_regsUpTo hx (hnext.trans_le hk)]
  rw [toNat_opcodeAt, hhigh, hlow]

end Sys2Proof.Proofs
end

section
/-! The encoding (spec 30_encoding.md): decode and encode are inverse to each other (R66, R67, R70), and the decoder takes the first row of the opcode table that accepts the word (R71). -/

namespace Sys2Proof.Proofs

open Sys2Proof Sys2Proof.Machine Sys2Proof.Claims

variable {w : Word} {j : Instr}

/-! ## The holes (R67): their well-formedness, and what the tiers (R63) answer on their words -/

@[simp] theorem wellFormed_nop0_iff {nnn : Addr} :
    (Instr.nop0 nnn).wellFormed = true ↔ nnn ≠ 0x0E0#12 ∧ nnn ≠ 0x0EE#12 := by
  simp [Instr.wellFormed]

@[simp] theorem wellFormed_nop8_iff {x y : Reg} {n : Nibble} :
    (Instr.nop8 x y n).wellFormed = true ↔ n ∉ aluNibbles := by
  simp [Instr.wellFormed]

@[simp] theorem wellFormed_nopE_iff {x : Reg} {kk : Byte} :
    (Instr.nopE x kk).wellFormed = true ↔ kk ∉ keyBytes := by
  simp [Instr.wellFormed]

@[simp] theorem wellFormed_nopF_iff {x : Reg} {kk : Byte} :
    (Instr.nopF x kk).wellFormed = true ↔ kk ∉ fBytes := by
  simp [Instr.wellFormed]

/-- `decodeAlu` tests the low nibble as a number. -/
theorem mem_aluNibbles_iff (n : Nibble) : n ∈ aluNibbles ↔ n.toNat ∈ [0, 1, 2, 3, 4, 5, 6, 7, 14] := by
  revert n
  decide

theorem decodeAlu_of_hole (h : nOf w ∉ aluNibbles) : decodeAlu w = .nop8 (xOf w) (yOf w) (nOf w) := by
  rw [mem_aluNibbles_iff] at h
  unfold decodeAlu
  split
  case h_10 => rfl
  all_goals next hn => simp [hn] at h

theorem decodeKey_of_hole (h : kkOf w ∉ keyBytes) : decodeKey w = .nopE (xOf w) (kkOf w) := by
  simp only [keyBytes, List.mem_cons, List.not_mem_nil, or_false, not_or] at h
  simp only [decodeKey, h, if_false]

theorem decodeF_of_hole (h : kkOf w ∉ fBytes) : decodeF w = .nopF (xOf w) (kkOf w) := by
  simp only [fBytes, List.mem_cons, List.not_mem_nil, or_false, not_or] at h
  simp only [decodeF, h, if_false]

/-- Past tier 1 the family nibble decides (R63, R69). -/
theorem decodeWord_of_not_literal (hcls : w ≠ 0x00E0#16) (hret : w ≠ 0x00EE#16) : decodeWord w = decodeFamily w := by
  rw [decodeWord, if_neg hcls, if_neg hret]

theorem decodeWord_nop0 {nnn : Addr} (hcls : nnn ≠ 0x0E0#12) (hret : nnn ≠ 0x0EE#12) :
    decodeWord (0x0#4 ++ nnn) = .nop0 nnn := by
  have hne {v : Word} (hv : nnn ≠ nnnOf v) : 0x0#4 ++ nnn ≠ v := by
    rintro rfl
    exact hv (nnnOf_addr _ _).symm
  rw [decodeWord_of_not_literal (hne hcls) (hne hret)]
  simp [decodeFamily]

/-! ## Decode after encode -/

/-- The tiers find in an encoded word the fields that were put there: one group of constructors per tier that decides, the holes by the field they are cut from. -/
theorem decodeWord_encode (hj : j.wellFormed = true) : decodeWord (encode j) = j := by
  cases j with
  | cls | ret => rfl
  | jp | call | seImm | sneImm | seReg | ldImm | addImm | sneReg | ldI | jpV0 | rnd | drw =>
    simp [encode, decodeWord_of_fam, decodeFamily]
  | ldReg | orReg | andReg | xorReg | addReg | subReg | shr | subnReg | shl =>
    simp [encode, decodeWord_of_fam, decodeFamily, decodeAlu]
  | skp | sknp => simp [encode, decodeWord_of_fam, decodeFamily, decodeKey]
  | ldVxDt | ldVxK | ldDtVx | ldStVx | addIVx | ldFVx | ldBVx | ldMemVx | ldVxMem =>
    simp [encode, decodeWord_of_fam, decodeFamily, decodeF]
  | nop0 nnn =>
    obtain ⟨hcls, hret⟩ := wellFormed_nop0_iff.mp hj
    exact decodeWord_nop0 hcls hret
  | nop8 x y n => simp [encode, decodeWord_of_fam, decodeFamily, decodeAlu_of_hole, wellFormed_nop8_iff.mp hj]
  | nopE x kk => simp [encode, decodeWord_of_fam, decodeFamily, decodeKey_of_hole, wellFormed_nopE_iff.mp hj]
  | nopF x kk => simp [encode, decodeWord_of_fam, decodeFamily, decodeF_of_hole, wellFormed_nopF_iff.mp hj]

/-- Settles O1: the two bytes of a word make that word again, and `decodeWord_encode` reads the instruction from it. -/
theorem decodeEncodeRoundTrip : Obligations.DecodeEncodeRoundTrip := by
  intro j rest hj
  calc decode (encodeBytes j ++ rest)
      = .ok (decodeWord (wordOfBytes (highByte (encode j)) (lowByte (encode j))), rest) := decode_cons _ _ _
    _ = .ok (j, rest) := by rw [wordOfBytes_bytes, decodeWord_encode hj]

/-! ## Encode after decode -/

/-- The instruction stands for the word: it is well formed and the word is its encoding. -/
def StandsFor (j : Instr) (w : Word) : Prop := j.wellFormed = true ∧ encode j = w

theorem decodeAlu_standsFor (hfam : famOf w = 0x8#4) : StandsFor (decodeAlu w) w := by
  have hw := word_of_regs w
  rw [hfam] at hw
  by_cases h : nOf w ∈ aluNibbles
  · simp only [aluNibbles, List.mem_cons, List.not_mem_nil, or_false] at h
    rcases h with h | h | h | h | h | h | h | h | h
    all_goals
      rw [h] at hw
      rw [decodeAlu, h]
      exact ⟨rfl, hw⟩
  · rw [decodeAlu_of_hole h]
    exact ⟨wellFormed_nop8_iff.mpr h, hw⟩

theorem decodeKey_standsFor (hfam : famOf w = 0xE#4) : StandsFor (decodeKey w) w := by
  have hw := word_of_imm w
  rw [hfam] at hw
  by_cases h : kkOf w ∈ keyBytes
  · simp only [keyBytes, List.mem_cons, List.not_mem_nil, or_false] at h
    rcases h with h | h
    all_goals
      rw [h] at hw
      rw [decodeKey, h]
      exact ⟨rfl, hw⟩
  · rw [decodeKey_of_hole h]
    exact ⟨wellFormed_nopE_iff.mpr h, hw⟩

theorem decodeF_standsFor (hfam : famOf w = 0xF#4) : StandsFor (decodeF w) w := by
  have hw := word_of_imm w
  rw [hfam] at hw
  by_cases h : kkOf w ∈ fBytes
  · simp only [fBytes, List.mem_cons, List.not_mem_nil, or_false] at h
    rcases h with h | h | h | h | h | h | h | h | h
    all_goals
      rw [h] at hw
      rw [decodeF, h]
      exact ⟨rfl, hw⟩
  · rw [decodeF_of_hole h]
    exact ⟨wellFormed_nopF_iff.mpr h, hw⟩

theorem nop0_standsFor (hfam : famOf w = 0x0#4) (hcls : w ≠ 0x00E0#16) (hret : w ≠ 0x00EE#16) :
    StandsFor (.nop0 (nnnOf w)) w := by
  have hw := word_of_addr w
  rw [hfam] at hw
  have hne {v : Addr} (hv : w ≠ 0x0#4 ++ v) : nnnOf w ≠ v := fun h => hv (by rw [← hw, h])
  exact ⟨wellFormed_nop0_iff.mpr ⟨hne hcls, hne hret⟩, hw⟩

theorem decodeFamily_standsFor (hcls : w ≠ 0x00E0#16) (hret : w ≠ 0x00EE#16) : StandsFor (decodeFamily w) w := by
  have hfam {f : Nat} (h : (famOf w).toNat = f) : famOf w = BitVec.ofNat 4 f := by
    rw [← h, BitVec.ofNat_toNat, BitVec.setWidth_eq]
  have haddr := word_of_addr w
  have himm := word_of_imm w
  have hregs := word_of_regs w
  unfold decodeFamily
  split
  case h_1 h => exact nop0_standsFor (hfam h) hcls hret
  case h_2 h | h_3 h | h_11 h | h_12 h => exact ⟨rfl, by rwa [hfam h] at haddr⟩
  case h_4 h | h_5 h | h_7 h | h_8 h | h_13 h => exact ⟨rfl, by rwa [hfam h] at himm⟩
  case h_6 h | h_10 h | h_14 h => exact ⟨rfl, by rwa [hfam h] at hregs⟩
  case h_9 h => exact decodeAlu_standsFor (hfam h)
  case h_15 h => exact decodeKey_standsFor (hfam h)
  case h_16 =>
    have hlast : (famOf w).toNat = 0xF := by grind
    exact decodeF_standsFor (hfam hlast)

theorem decodeWord_standsFor (w : Word) : StandsFor (decodeWord w) w := by
  unfold decodeWord
  split_ifs with hcls hret
  · exact ⟨rfl, hcls.symm⟩
  · exact ⟨rfl, hret.symm⟩
  · exact decodeFamily_standsFor hcls hret

/-- Settles O2: what each tier answers stands for the word, a hole by the fields no earlier choice took. -/
theorem encodeDecodeRoundTrip : Obligations.EncodeDecodeRoundTrip := decodeWord_standsFor

/-- The decoder and the encoder are inverse bijections between the words and the well-formed instructions. -/
theorem decodeWord_eq_iff (hj : j.wellFormed = true) : decodeWord w = j ↔ w = encode j := by
  obtain ⟨-, henc⟩ := decodeWord_standsFor w
  constructor
  · rintro rfl
    exact henc.symm
  · rintro rfl
    exact decodeWord_encode hj

/-- Settles O4: the two literal words are the encodings of CLS and RET. -/
theorem literalWordsAreWhole : Obligations.LiteralWordsAreWhole :=
  fun _ => ⟨decodeWord_eq_iff rfl, decodeWord_eq_iff rfl⟩

/-- Settles O5: 5xyN and 9xyN are the encodings of their instructions, whose meanings do not mention the low nibble. -/
theorem lowNibbleOfRegisterSkipsIgnored : Obligations.LowNibbleOfRegisterSkipsIgnored :=
  fun x y n _ => ⟨decodeWord_encode (j := .seReg x y n) rfl, ⟨_, rfl, rfl⟩,
    decodeWord_encode (j := .sneReg x y n) rfl, ⟨_, rfl, rfl⟩⟩

/-- Settles O6: each sample word is the encoding of its instruction. -/
theorem sampleWordsDecode : Obligations.SampleWordsDecode :=
  ⟨decodeWord_encode (j := .cls) rfl, decodeWord_encode (j := .jp 0x234) rfl, decodeWord_encode (j := .seImm 3 0x2A) rfl,
    decodeWord_encode (j := .ldImm 0xA 0x7F) rfl, decodeWord_encode (j := .addReg 0 1) rfl,
    decodeWord_encode (j := .ldI 0x2F0) rfl, decodeWord_encode (j := .rnd 3 0x0F) rfl,
    decodeWord_encode (j := .drw 1 2 5) rfl, decodeWord_encode (j := .skp 4) rfl,
    decodeWord_encode (j := .ldVxMem 2) rfl, decodeWord_encode (j := .nop0 0x123) rfl⟩

/-! ## The rows of the opcode table (R71) -/

/-- The per-constructor lemmas of Laws/PerInstr, put together. -/
theorem encode_matches_row (j : Instr) : Laws.EncodeMatchesRow.Statement j := by
  open Laws.EncodeMatchesRow in
  cases j
  exacts [cls, ret, jp _, call _, seImm _ _, sneImm _ _, seReg _ _ _, ldImm _ _, addImm _ _, ldReg _ _, orReg _ _,
    andReg _ _, xorReg _ _, addReg _ _, subReg _ _, shr _ _, subnReg _ _, shl _ _, sneReg _ _ _, ldI _, jpV0 _, rnd _ _,
    drw _ _ _, skp _, sknp _, ldVxDt _, ldVxK _, ldDtVx _, ldStVx _, addIVx _, ldFVx _, ldBVx _, ldMemVx _, ldVxMem _,
    nop0 _, nop8 _ _ _, nopE _ _, nopF _ _]

/-- Two rows that accept one word have equal values wherever both masks look. -/
theorem values_agree_of_accepts {r q : OpRow} (hr : r.accepts w = true) (hq : q.accepts w = true) :
    r.value &&& q.mask = q.value &&& r.mask := by
  rw [OpRow.accepts, beq_iff_eq] at hr hq
  rw [← hr, ← hq, BitVec.and_assoc, BitVec.and_assoc, BitVec.and_comm r.mask]

theorem instrRows_disjoint : ∀ r ∈ opcodeTable.take 34, ∀ q ∈ opcodeTable.take 34,
    r.value &&& q.mask = q.value &&& r.mask → r = q := by decide

theorem holeRows_disjoint : ∀ r ∈ opcodeTable.drop 34, ∀ q ∈ opcodeTable.drop 34,
    r.value &&& q.mask = q.value &&& r.mask → r = q := by decide

/-- A field that a row's mask covers is the row's in every word the row accepts. -/
theorem field_of_accepts {r : OpRow} {start len : Nat} (hr : r.accepts w = true)
    (hmask : r.mask.extractLsb' start len = BitVec.allOnes len) :
    w.extractLsb' start len = r.value.extractLsb' start len := by
  rw [OpRow.accepts, beq_iff_eq] at hr
  rw [← hr, BitVec.extractLsb'_and, hmask, BitVec.and_allOnes]

/-- Every instruction row fixes the family, and in the family of a hole it fixes the field the hole is cut from, at a value outside the hole (R63, R67). -/
theorem instrRow_fixes_fields : ∀ r ∈ opcodeTable.take 34, famOf r.mask = BitVec.allOnes 4 ∧
    (famOf r.value = 0x0 → nnnOf r.mask = BitVec.allOnes 12 ∧ nnnOf r.value ∈ [0x0E0#12, 0x0EE#12]) ∧
    (famOf r.value = 0x8 → nOf r.mask = BitVec.allOnes 4 ∧ nOf r.value ∈ aluNibbles) ∧
    (famOf r.value = 0xE → kkOf r.mask = BitVec.allOnes 8 ∧ kkOf r.value ∈ keyBytes) ∧
    (famOf r.value = 0xF → kkOf r.mask = BitVec.allOnes 8 ∧ kkOf r.value ∈ fBytes) := by decide

theorem instrRow_refuses_hole {r : OpRow} (hr : r ∈ opcodeTable.take 34) (hj : j.wellFormed = true)
    (hhole : isHole j = true) : ¬ r.accepts (encode j) = true := by
  intro hacc
  obtain ⟨hfamMask, h0, h8, hE, hF⟩ := instrRow_fixes_fields r hr
  have hfam : famOf (encode j) = famOf r.value := field_of_accepts hacc hfamMask
  cases j with
  | nop0 nnn =>
    obtain ⟨hmask, hval⟩ := h0 (hfam.symm.trans (famOf_addr _ _))
    have hnnn : nnn = nnnOf r.value := (nnnOf_addr _ _).symm.trans (field_of_accepts hacc hmask)
    simp [← hnnn, wellFormed_nop0_iff.mp hj] at hval
  | nop8 x y n =>
    obtain ⟨hmask, hval⟩ := h8 (hfam.symm.trans (famOf_regs _ _ _ _))
    have hn : n = nOf r.value := (nOf_regs _ _ _ _).symm.trans (field_of_accepts hacc hmask)
    exact wellFormed_nop8_iff.mp hj (hn ▸ hval)
  | nopE x kk =>
    obtain ⟨hmask, hval⟩ := hE (hfam.symm.trans (famOf_imm _ _ _))
    have hkk : kk = kkOf r.value := (kkOf_imm _ _ _).symm.trans (field_of_accepts hacc hmask)
    exact wellFormed_nopE_iff.mp hj (hkk ▸ hval)
  | nopF x kk =>
    obtain ⟨hmask, hval⟩ := hF (hfam.symm.trans (famOf_imm _ _ _))
    have hkk : kk = kkOf r.value := (kkOf_imm _ _ _).symm.trans (field_of_accepts hacc hmask)
    exact wellFormed_nopF_iff.mp hj (hkk ▸ hval)
  | _ => simp [isHole] at hhole

theorem isHole_of_mnemonic (h : j.mnemonic ∈ ["NOP.0nnn", "NOP.8xyN", "NOP.Exkk", "NOP.Fxkk"]) : isHole j = true := by
  cases j with
  | nop0 | nop8 | nopE | nopF => rfl
  | _ => simp [Instr.mnemonic] at h

/-! ## The first row that accepts a word -/

theorem find?_eq_some_of_unique {α : Type} {p : α → Bool} {l : List α} {a : α} (ha : a ∈ l) (hp : p a = true)
    (huniq : ∀ b ∈ l, p b = true → b = a) : l.find? p = some a := by
  obtain ⟨b, hb⟩ := Option.isSome_iff_exists.mp (List.find?_isSome.mpr ⟨a, ha, hp⟩)
  rw [hb, huniq b (List.mem_of_find?_eq_some hb) (List.find?_some hb)]

/-- The row of the decoded instruction accepts the word, and it is the first to do so: if it is an instruction row, no other instruction row accepts the word; if it is a hole's, no instruction row does, and no other hole. -/
theorem find?_opcodeTable (w : Word) :
    (opcodeTable.find? fun r => r.accepts w).map OpRow.mnemonic = some (decodeWord w).mnemonic := by
  obtain ⟨hwf, henc⟩ := decodeWord_standsFor w
  obtain ⟨r, hr, hname, hacc⟩ := encode_matches_row (decodeWord w)
  rw [henc] at hacc
  suffices hfind : (opcodeTable.find? fun r => r.accepts w) = some r by rw [hfind, Option.map_some, hname]
  rw [← List.take_append_drop 34 opcodeTable] at hr ⊢
  rw [List.find?_append]
  rcases List.mem_append.mp hr with hr | hr
  · rw [find?_eq_some_of_unique hr hacc fun q hq hacc' =>
      instrRows_disjoint q hq r hr (values_agree_of_accepts hacc' hacc), Option.some_or]
  · have hhole : isHole (decodeWord w) = true := isHole_of_mnemonic (hname ▸ List.mem_map_of_mem hr)
    have hnone : (opcodeTable.take 34).find? (fun r => r.accepts w) = none :=
      List.find?_eq_none.mpr fun q hq => henc ▸ instrRow_refuses_hole hq hwf hhole
    rw [hnone, Option.none_or]
    exact find?_eq_some_of_unique hr hacc fun q hq hacc' =>
      holeRows_disjoint q hq r hr (values_agree_of_accepts hacc' hacc)

/-- Settles O3: `find?_opcodeTable` for the first row, `instrRows_disjoint` for the overlap, and the last four rows as they stand in the table. -/
theorem decoderTakesFirstMatchingRow : Obligations.DecoderTakesFirstMatchingRow :=
  ⟨find?_opcodeTable, fun _ r hr q hq haccR haccQ => instrRows_disjoint r hr q hq (values_agree_of_accepts haccR haccQ),
    rfl, by decide⟩

end Sys2Proof.Proofs
end

section
/-! Control transfer (spec 40_control_flow.md): the jumps, CALL and RET, the compare skips, and the whole Step of a hole (R89) and of a jump to its own address (R81). -/

namespace Sys2Proof.Proofs

open Sys2Proof Sys2Proof.Machine Sys2Proof.Claims

variable {j : Instr} {s : State}

/-! ## The jumps (R81, R88) -/

theorem toNat_zextAddr (nnn : Addr) : (zextAddr nnn).toNat = nnn.toNat :=
  BitVec.toNat_setWidth_of_le (by decide)

theorem toNat_zextByte (b : Byte) : (zextByte b).toNat = b.toNat :=
  BitVec.toNat_setWidth_of_le (by decide)

/-- The target of JP V0 is at most 0xFFF + 0xFF, so the sum modulo 65536 is the sum. -/
theorem toNat_zextAddr_add_zextByte (nnn : Addr) (b : Byte) :
    (zextAddr nnn + zextByte b).toNat = nnn.toNat + b.toNat := by
  rw [BitVec.toNat_add, toNat_zextAddr, toNat_zextByte]
  exact Nat.mod_eq_of_lt (by omega)

/-- Settles O16: both jumps are one write of PC. -/
theorem jumpsSetPc : Obligations.JumpsSetPc := fun nnn s =>
  ⟨decodeWord_encode (j := .jp nnn) rfl, ⟨_, rfl, toNat_zextAddr nnn, keptBut_setPc s _⟩,
    decodeWord_encode (j := .jpV0 nnn) rfl,
    ⟨_, rfl, toNat_zextAddr_add_zextByte nnn (s.reg 0), keptBut_setPc s _⟩⟩

/-- Settles O17: the fetch's advance of PC is overwritten with the PC that was there. -/
theorem jumpToSelfChangesNothing : Obligations.JumpToSelfChangesNothing := by
  intro nnn s hready hword hpc
  calc step s
      = exec (decodeWord s.opcodeAt) s.executing := step_of_ready hready
    _ = exec (.jp nnn) s.executing := by rw [(decodeWord_eq_iff (j := .jp nnn) rfl).mpr hword]
    _ = .next (s.executing.setPc s.pc) := by rw [hpc]; rfl
    _ = .next { s with schedule := s.schedule.tail } := rfl

/-! ## The stack (R80, R82) -/

/-- The entry of an execute fault, in the words of the statements (R191). -/
theorem faultEntered_raiseExec (s : State) (c : FaultCause) (j : Instr) (n : Nat) :
    FaultEntered s (s.raiseExec c j n) c (s.pc - 2) (encode j) n :=
  faultEntered_raise s c (s.pc - 2) (encode j) (BitVec.toNat_ofNat n 16)

/-- Settles O18: `stack_after_call` with room on the stack, the fault entry without. -/
theorem callPushesReturnAddress : Obligations.CallPushesReturnAddress := by
  intro nnn s
  refine ⟨decodeWord_encode (j := .call nnn) rfl, ?_⟩
  obtain ⟨t, hcall⟩ := exec_next (.call nnn) s
  refine ⟨t, hcall, ?_⟩
  split
  · next hroom =>
    obtain ⟨hsp, hat, hkept⟩ := stack_after_call hroom hcall
    refine ⟨?_, hsp, fun k => (hat k).trans (if_congr eq_comm rfl rfl), hkept⟩
    cases (exec_call_of_lt nnn hroom).symm.trans hcall
    exact toNat_zextAddr nnn
  · next hfull =>
    have hfault : execFault (.call nnn) s = some (.stackOverflow, 0) := if_pos (by omega)
    cases (exec_of_fault hfault).symm.trans hcall
    exact faultEntered_raiseExec s .stackOverflow (.call nnn) 0

/-- Settles O19: `exec_ret_at` at the entry below SP, the fault entry on an empty stack. -/
theorem retPopsReturnAddress : Obligations.RetPopsReturnAddress := by
  intro s
  refine ⟨decodeWord_encode (j := .ret) rfl, ?_⟩
  by_cases hpos : 0 < s.sp.val
  · obtain ⟨t, hret, hsp, hpc, hat, hkept⟩ := exec_ret_at (d := ⟨s.sp.val - 1, by omega⟩) (Nat.sub_add_cancel hpos).symm
    refine ⟨t, hret, ?_⟩
    rw [dif_pos hpos]
    exact ⟨hpc, hsp, hat, hkept⟩
  · have hfault : execFault .ret s = some (.stackUnderflow, 0) := if_pos (by omega)
    refine ⟨_, exec_of_fault hfault, ?_⟩
    rw [dif_neg hpos]
    exact faultEntered_raiseExec s .stackUnderflow .ret 0

/-- Settles O20: the RET takes PC from the entry the CALL wrote, whatever PC stood between them. -/
theorem retUndoesCall : Obligations.RetUndoesCall := by
  intro nnn s p hs
  obtain ⟨t, hcall⟩ := exec_next (.call nnn) s
  obtain ⟨hsp, hat, hkept⟩ := stack_after_call hs hcall
  obtain ⟨u, hret, husp, hupc, -, hukept⟩ := exec_ret_at (s := t.setPc p) (d := ⟨s.sp.val, hs⟩) hsp
  have hpc : u.pc = s.pc := hupc.trans ((hat ⟨s.sp.val, hs⟩).trans (if_pos rfl))
  have hmoved : KeptBut [.pc, .stack] t (t.setPc p) := (keptBut_setPc t p).mono (by simp)
  exact ⟨t, u, hcall, hret, hpc, Fin.ext husp, KeptBut.restore (p := .pc) hpc ((hkept.trans hmoved).trans hukept)⟩

/-! ## The compare skips (R84 to R87, R90) -/

/-- A conditional skip in numbers: PC moves 2 further modulo 65536 exactly when the condition holds. -/
theorem toNat_pc_skipIf (s : State) {c : Bool} {p : Prop} [Decidable p] (h : c = true ↔ p) :
    (s.skipIf c).pc.toNat = (s.pc.toNat + if p then 2 else 0) % 65536 := by
  rw [pc_skipIf]
  by_cases hp : p
  · rw [if_pos (h.mpr hp), if_pos hp]
    exact BitVec.toNat_add s.pc 2
  · rw [if_neg (h.not.mpr hp), if_neg hp]
    exact (Nat.mod_eq_of_lt s.pc.isLt).symm

/-- An instruction whose meaning is a conditional skip: the next state exists, and only its PC can differ (R90). -/
theorem exec_of_skipIf {c : Bool} {p : Prop} [Decidable p] (hexec : exec j s = .next (s.skipIf c)) (h : c = true ↔ p) :
    ∃ t, exec j s = .next t ∧ t.pc.toNat = (s.pc.toNat + if p then 2 else 0) % 65536 ∧ KeptBut [.pc] s t :=
  ⟨_, hexec, toNat_pc_skipIf s h, keptBut_skipIf s c⟩

/-- Settles O21: each of the four is a conditional skip on its comparison. -/
theorem compareSkipsMovePcByTwo : Obligations.CompareSkipsMovePcByTwo := fun x y kk n _ =>
  ⟨decodeWord_encode (j := .seImm x kk) rfl, decodeWord_encode (j := .sneImm x kk) rfl,
    decodeWord_encode (j := .seReg x y n) rfl, decodeWord_encode (j := .sneReg x y n) rfl,
    exec_of_skipIf rfl beq_iff_eq, exec_of_skipIf rfl bne_iff_ne,
    exec_of_skipIf rfl beq_iff_eq, exec_of_skipIf rfl bne_iff_ne⟩

/-! ## The holes (R89) -/

theorem exec_of_isHole (hhole : isHole j = true) : exec j s = .next s := by
  cases j with
  | nop0 | nop8 | nopE | nopF => rfl
  | _ => simp [isHole] at hhole

/-- Settles O8: the fetch's advance of PC is all that the Step does. -/
theorem holeStepOnlyAdvancesPc : Obligations.HoleStepOnlyAdvancesPc := by
  intro s hrun hpc hhole
  refine ⟨s.afterFetch, ?_, rfl, keptBut_setPc s _⟩
  rw [coreStep_of_canFetch hrun ((canFetch_iff s).mpr hpc), exec_of_isHole hhole]

end Sys2Proof.Proofs
end

section
/-! The immediate loads and the immediate add (spec 41_load_add_imm.md): one write of Vx or of I each. -/

namespace Sys2Proof.Proofs

open Sys2Proof Sys2Proof.Machine Sys2Proof.Claims

variable {j : Instr} {s : State}

/-- An instruction whose meaning is one write of a register: the next state exists, the register reads as the byte written, and nothing else differs (VF too, unless it is the register written). -/
theorem exec_of_setReg {x : Reg} {b : Byte} (hexec : exec j s = .next (s.setReg x b)) :
    ∃ t, exec j s = .next t ∧ t.reg x = b ∧ RegsBut (· = x) [] s t :=
  ⟨_, hexec, State.reg_setReg_self s x b, regsBut_setReg s x b⟩

/-- ADD Vx,kk in numbers: the sum wraps modulo 256 (R101). -/
theorem exec_addImm (x : Reg) (kk : Byte) (s : State) :
    ∃ t, exec (.addImm x kk) s = .next t ∧ (t.reg x).toNat = ((s.reg x).toNat + kk.toNat) % 256 ∧
      RegsBut (· = x) [] s t := by
  obtain ⟨t, hexec, hsum, hkept⟩ := exec_of_setReg (j := .addImm x kk) (s := s) (b := s.reg x + kk) rfl
  refine ⟨t, hexec, ?_, hkept⟩
  rw [hsum]
  exact BitVec.toNat_add (s.reg x) kk

/-- Settles O23: the loads and the add are one write of Vx, and LD I,nnn is one write of I with the address zero-extended. -/
theorem immediateLoadsAndAdd : Obligations.ImmediateLoadsAndAdd := fun x kk nnn s =>
  ⟨decodeWord_encode (j := .ldImm x kk) rfl, decodeWord_encode (j := .addImm x kk) rfl,
    decodeWord_encode (j := .ldI nnn) rfl, exec_of_setReg rfl, exec_addImm x kk s,
    ⟨_, rfl, toNat_zextAddr nnn, keptBut_setI s _⟩⟩

end Sys2Proof.Proofs
end

section
/-! The register-register ALU and the holes (spec 42_alu.md; 30_encoding.md R67): one write of Vx, or a flag in VF and then the result in Vx (R9), in numbers; and the no-ops. -/

namespace Sys2Proof.Proofs

open Sys2Proof Sys2Proof.Machine Sys2Proof.Claims

variable {j : Instr} {x : Reg} {s : State} {f b : Byte} {result flag n m : Nat}

/-! ## The flags and the subtraction in numbers -/

theorem toNat_flagOf (p : Prop) [Decidable p] : (flagOf (decide p)).toNat = if p then 1 else 0 := by
  by_cases hp : p <;> simp [flagOf, hp]

theorem toNat_lowBitFlag (a : Byte) : (lowBitFlag a).toNat = a.toNat % 2 := by
  rw [lowBitFlag, BitVec.toNat_and]
  exact Nat.and_one_is_mod a.toNat

/-- The masked byte is bit 7 at its own place (R118). -/
theorem toNat_highBitFlag (a : Byte) : (highBitFlag a).toNat = if 128 ≤ a.toNat then 0x80 else 0 := by
  have hmask : (highBitFlag a).toNat = (a.toNat.testBit 7).toNat * 128 := by
    rw [highBitFlag, BitVec.toNat_and]
    exact Nat.and_two_pow a.toNat 7
  have hbit : a.toNat.testBit 7 = decide (128 ≤ a.toNat) := by
    rw [Nat.testBit_eq_decide_div_mod_eq, decide_eq_decide]
    omega
  rw [hmask, hbit]
  split <;> simp [*]

theorem toNat_sub_byte (a b : Byte) : (a - b).toNat = (a.toNat + 256 - b.toNat) % 256 := by
  rw [BitVec.toNat_sub]
  omega

/-! ## One write of Vx: LD, OR, AND and XOR (R110 to R113) -/

/-- `exec_of_setReg` read bit by bit. -/
theorem exec_of_setReg_bits {bits : Nat → Bool} (hexec : exec j s = .next (s.setReg x b))
    (hbits : ∀ k, b.getLsbD k = bits k) :
    ∃ t, exec j s = .next t ∧ (∀ k, (t.reg x).getLsbD k = bits k) ∧ RegsBut (· = x) [] s t := by
  obtain ⟨t, hnext, hreg, hkept⟩ := exec_of_setReg hexec
  exact ⟨t, hnext, fun k => by rw [hreg, hbits], hkept⟩

/-- Settles O24: each is one write of Vx, and the library says that the three logic results are bitwise. -/
theorem movesAndLogicWriteOnlyVx : Obligations.MovesAndLogicWriteOnlyVx := fun x y _ =>
  ⟨decodeWord_encode (j := .ldReg x y) rfl, decodeWord_encode (j := .orReg x y) rfl,
    decodeWord_encode (j := .andReg x y) rfl, decodeWord_encode (j := .xorReg x y) rfl, exec_of_setReg rfl,
    exec_of_setReg_bits rfl fun _ => BitVec.getLsbD_or, exec_of_setReg_bits rfl fun _ => BitVec.getLsbD_and,
    exec_of_setReg_bits rfl fun _ => BitVec.getLsbD_xor⟩

/-! ## A flag and a result (R9) -/

/-- `j` answers a next state with the result in Vx and, unless x is F, the flag in VF; nothing but Vx and VF differs. -/
def ResultAndFlag (j : Instr) (x : Reg) (s : State) (result flag : Nat) : Prop :=
  ∃ t, exec j s = .next t ∧ (t.reg x).toNat = result ∧ (x ≠ vf → (t.reg vf).toNat = flag) ∧
    RegsBut (fun r => r = x ∨ r = vf) [] s t

/-- An instruction whose meaning is one `setFlagThenReg`: the flag is seen where the result does not replace it. -/
theorem exec_of_setFlagThenReg (hexec : exec j s = .next (s.setFlagThenReg f x b)) (hresult : b.toNat = result)
    (hflag : f.toNat = flag) : ResultAndFlag j x s result flag := by
  refine ⟨_, hexec, ?_, fun hx => ?_, regsBut_setFlagThenReg s f x b⟩
  · rw [State.reg_setFlagThenReg, if_pos rfl, hresult]
  · rw [State.reg_setFlagThenReg, if_neg hx.symm, if_pos rfl, hflag]

/-- The result alone, which is all there is to see when x is F. -/
theorem ResultAndFlag.result_eq (h : ResultAndFlag j x s result flag) (hn : result = n) :
    ∃ t, exec j s = .next t ∧ (t.reg x).toNat = n := by
  obtain ⟨t, hexec, hresult, -, -⟩ := h
  exact ⟨t, hexec, hresult.trans hn⟩

theorem ResultAndFlag.result_flag_eq (h : ResultAndFlag j x s result flag) (hx : x ≠ vf) (hn : result = n)
    (hm : flag = m) : ∃ t, exec j s = .next t ∧ (t.reg x).toNat = n ∧ (t.reg vf).toNat = m := by
  obtain ⟨t, hexec, hresult, hflag, -⟩ := h
  exact ⟨t, hexec, hresult.trans hn, (hflag hx).trans hm⟩

theorem exec_addReg (x y : Reg) (s : State) :
    ResultAndFlag (.addReg x y) x s (((s.reg x).toNat + (s.reg y).toNat) % 256)
      (if (s.reg x).toNat + (s.reg y).toNat > 255 then 1 else 0) :=
  exec_of_setFlagThenReg rfl (BitVec.toNat_add _ _) (toNat_flagOf _)

theorem exec_subReg (x y : Reg) (s : State) :
    ResultAndFlag (.subReg x y) x s (((s.reg x).toNat + 256 - (s.reg y).toNat) % 256)
      (if (s.reg x).toNat > (s.reg y).toNat then 1 else 0) :=
  exec_of_setFlagThenReg rfl (toNat_sub_byte _ _) (toNat_flagOf _)

theorem exec_subnReg (x y : Reg) (s : State) :
    ResultAndFlag (.subnReg x y) x s (((s.reg y).toNat + 256 - (s.reg x).toNat) % 256)
      (if (s.reg y).toNat > (s.reg x).toNat then 1 else 0) :=
  exec_of_setFlagThenReg rfl (toNat_sub_byte _ _) (toNat_flagOf _)

theorem exec_shr (x y : Reg) (s : State) :
    ResultAndFlag (.shr x y) x s ((s.reg x).toNat / 2) ((s.reg x).toNat % 2) :=
  exec_of_setFlagThenReg rfl (BitVec.toNat_ushiftRight _ _) (toNat_lowBitFlag _)

theorem exec_shl (x y : Reg) (s : State) :
    ResultAndFlag (.shl x y) x s ((s.reg x).toNat * 2 % 256) (if 128 ≤ (s.reg x).toNat then 0x80 else 0) :=
  exec_of_setFlagThenReg rfl (by rw [BitVec.toNat_shiftLeft, Nat.shiftLeft_eq]) (toNat_highBitFlag _)

/-- Settles O25: the three meanings in numbers. -/
theorem addAndSubtractWithFlag : Obligations.AddAndSubtractWithFlag := fun x y s =>
  ⟨decodeWord_encode (j := .addReg x y) rfl, decodeWord_encode (j := .subReg x y) rfl,
    decodeWord_encode (j := .subnReg x y) rfl, exec_addReg x y s, exec_subReg x y s, exec_subnReg x y s⟩

/-- Settles O26: the two meanings in numbers. -/
theorem shiftsWithFlag : Obligations.ShiftsWithFlag := fun x y s =>
  ⟨decodeWord_encode (j := .shr x y) rfl, decodeWord_encode (j := .shl x y) rfl, exec_shr x y s, exec_shl x y s⟩

/-- The carry of two bytes as a number. -/
theorem carry_eq_div (a b : Byte) : (if a.toNat + b.toNat > 255 then 1 else 0) = (a.toNat + b.toNat) / 256 := by
  split <;> omega

/-- Settles O27: where x is F only the result is left in VF; where it is not, both are seen, and y being F matters only as an operand. -/
theorem vfAsOperandTable : Obligations.VfAsOperandTable := fun z s hz =>
  ⟨⟨(exec_addReg vf z s).result_eq rfl,
    (exec_addReg z vf s).result_flag_eq hz rfl (carry_eq_div _ _),
    (exec_addReg vf vf s).result_eq (by omega)⟩,
   ⟨(exec_subReg vf z s).result_eq rfl,
    (exec_subReg z vf s).result_flag_eq hz rfl rfl,
    (exec_subReg vf vf s).result_eq (by omega)⟩,
   ⟨(exec_shr vf z s).result_eq rfl,
    (exec_shr z vf s).result_flag_eq hz rfl rfl,
    (exec_shr vf vf s).result_eq rfl⟩,
   ⟨(exec_subnReg vf z s).result_eq rfl,
    (exec_subnReg z vf s).result_flag_eq hz rfl rfl,
    (exec_subnReg vf vf s).result_eq (by omega)⟩,
   ⟨(exec_shl vf z s).result_eq (by omega),
    (exec_shl z vf s).result_flag_eq hz (by omega) rfl,
    (exec_shl vf vf s).result_eq (by omega)⟩⟩

/-! ## The holes (R67, R89, R119, R154, R173) -/

theorem holeNibbles_disjoint : ∀ k ∈ [8, 9, 0xA, 0xB, 0xC, 0xD, 0xF], k ∉ aluNibbles.map BitVec.toNat := by decide

/-- Settles O7: each word of a hole is the encoding of its no-op, well formed because its field, as a number, is none of the instructions'. -/
theorem holesChangeNothing : Obligations.HolesChangeNothing := by
  refine ⟨fun x y n hn => decodeWord_encode (j := .nop8 x y n) ?_, fun x kk hkk => decodeWord_encode (j := .nopE x kk) ?_,
    fun x kk hkk => decodeWord_encode (j := .nopF x kk) ?_, fun nnn => decodeWord_nop0,
    fun _ _ _ _ => exec_of_isHole rfl, fun _ _ _ => ⟨exec_of_isHole rfl, exec_of_isHole rfl⟩, fun _ _ => exec_of_isHole rfl⟩
  · exact wellFormed_nop8_iff.mpr (mt List.mem_map_of_mem (holeNibbles_disjoint _ hn))
  · exact wellFormed_nopE_iff.mpr (mt (List.mem_map_of_mem (f := BitVec.toNat)) hkk)
  · exact wellFormed_nopF_iff.mpr (mt (List.mem_map_of_mem (f := BitVec.toNat)) hkk)

end Sys2Proof.Proofs
end

section
/-! Random (spec 43_random.md R130, R131): the draw is counted, and Vx takes it under the mask. -/

namespace Sys2Proof.Proofs

open Sys2Proof Sys2Proof.Machine Sys2Proof.Claims

/-- RND as its two updates, for every draw: the counter moves, and then Vx takes the drawn byte AND kk. -/
theorem exec_rnd (x : Reg) (kk : Byte) (s : State) :
    ∃ t, exec (.rnd x kk) s = .next t ∧ t.reg x = Config.draw s.draws &&& kk ∧ t.draws = s.draws + 1 ∧
      RegsBut (· = x) [.draws] s t :=
  ⟨_, rfl, State.reg_setReg_self _ x _, State.tookDraw_draws s,
    (keptBut_tookDraw s).thenRegs (by decide) (regsBut_setReg _ x _)⟩

/-- Settles O28: RND's masked draw, read bit by bit. -/
theorem randomMasksAFreshDraw : Obligations.RandomMasksAFreshDraw := by
  intro x kk s
  obtain ⟨t, hexec, hreg, hdraws, hkept⟩ := exec_rnd x kk s
  refine ⟨decodeWord_encode (j := .rnd x kk) rfl, t, hexec, fun k => ?_, hdraws, hkept⟩
  rw [hreg, BitVec.getLsbD_and]

end Sys2Proof.Proofs
end

section
/-! Display (spec 44_display.md): CLS, the pixels and the collision of one DRW in the words of the statements, and from them the second of two identical DRWs. -/

namespace Sys2Proof.Proofs

open Sys2Proof Sys2Proof.Machine Sys2Proof.Claims

variable {x y : Reg} {n : Nibble} {s t : State}

/-- Settles O29: CLS is one update of the screen, to the blank one. -/
theorem clsTurnsEveryPixelOff : Obligations.ClsTurnsEveryPixelOff := fun s =>
  ⟨decodeWord_encode (j := .cls) rfl, _, rfl, Screen.get_blank, keptBut_setScreen s _⟩

/-! ## The pixels under the 1 bits (R136, R137) -/

/-- The pixels on which the DRW at `s` lands a 1 bit. -/
def hits (s : State) (x y : Reg) (n : Nibble) : List (Fin 32 × Fin 64) :=
  spriteHits (s.reg x) (s.reg y) 0 (s.loadBytes s.i.toNat n.toNat)

theorem lands_iff {row col : Nat} {r : Fin 32} {c : Fin 64} :
    lands s x y row col r c ↔ spriteBit (s.byteAt (s.i.toNat + row)) col = true ∧
      spriteRow (s.reg y) row = r ∧ spriteCol (s.reg x) col = c := by
  simp only [lands, spriteBit, spriteRow, spriteCol, Fin.ext_iff, Fin.val_ofNat, eq_comm]

theorem mem_hits {r : Fin 32} {c : Fin 64} :
    (r, c) ∈ hits s x y n ↔ ∃ row < n.toNat, ∃ col < 8, lands s x y row col r c := by
  rw [hits, mem_spriteHits, State.length_loadBytes]
  refine exists_congr fun row => and_congr_right fun hrow => exists_congr fun col => and_congr_right fun _ => ?_
  rw [State.getD_loadBytes _ _ _ _ hrow, Nat.zero_add, lands_iff]

/-- Some hit pixel is on (or off) exactly when some 1 bit lands on a pixel that is. -/
theorem exists_hits_iff {b : Bool} :
    (∃ p ∈ hits s x y n, s.pixel p.1 p.2 = b) ↔
      ∃ row < n.toNat, ∃ col < 8, ∃ r c, lands s x y row col r c ∧ s.pixel r c = b := by
  constructor
  · rintro ⟨⟨r, c⟩, hmem, hb⟩
    obtain ⟨row, hrow, col, hcol, hland⟩ := mem_hits.mp hmem
    exact ⟨row, hrow, col, hcol, r, c, hland, hb⟩
  · rintro ⟨row, hrow, col, hcol, r, c, hland, hb⟩
    exact ⟨(r, c), mem_hits.mpr ⟨row, hrow, col, hcol, hland⟩, hb⟩

/-- Every 1 bit lands somewhere, so there is a hit exactly when the sprite has a 1 bit. -/
theorem exists_mem_hits_iff :
    (∃ p, p ∈ hits s x y n) ↔ ∃ row < n.toNat, ∃ col < 8, (s.byteAt (s.i.toNat + row)).getLsbD col = true := by
  constructor
  · rintro ⟨⟨r, c⟩, hmem⟩
    obtain ⟨row, hrow, col, -, hbit, -⟩ := mem_hits.mp hmem
    exact ⟨row, hrow, 7 - col, by omega, hbit⟩
  · rintro ⟨row, hrow, col, hcol, hbit⟩
    refine ⟨(spriteRow (s.reg y) row, spriteCol (s.reg x) (7 - col)), mem_hits.mpr ⟨row, hrow, 7 - col, by omega, ?_⟩⟩
    have hcol' : 7 - (7 - col) = col := by omega
    exact lands_iff.mpr ⟨by rw [spriteBit, hcol', hbit], rfl, rfl⟩

/-! ## One DRW (R137, R138) -/

/-- `t` is `s` after a DRW that does not fault: the hit pixels flipped, VF the collision, all else kept. -/
structure Drew (s t : State) (x y : Reg) (n : Nibble) : Prop where
  pixel : ∀ r c, t.pixel r c = (s.pixel r c ^^ decide ((r, c) ∈ hits s x y n))
  flag : (t.reg vf).toNat = if ∃ p ∈ hits s x y n, s.pixel p.1 p.2 = true then 1 else 0
  kept : RegsBut (· = vf) [.screen] s t

theorem length_loadBytes_le (s : State) (n : Nibble) : (s.loadBytes s.i.toNat n.toNat).length ≤ 32 := by
  have := n.isLt
  rw [State.length_loadBytes]
  omega

theorem execFault_drw_eq_none (h : n.toNat = 0 ∨ s.i.toNat + n.toNat ≤ 4096) : execFault (.drw x y n) s = none := by
  rw [checksData_drw, if_pos ((State.inRange_iff _ _).mpr h)]

theorem execFault_drw_eq_dataBounds (h : ¬ (n.toNat = 0 ∨ s.i.toNat + n.toNat ≤ 4096)) :
    execFault (.drw x y n) s = some (.dataBounds, max s.i.toNat 4096) := by
  rw [checksData_drw, if_neg ((State.inRange_iff _ _).not.mpr h)]

theorem exec_drw_of_inRange (x y : Reg) (h : n.toNat = 0 ∨ s.i.toNat + n.toNat ≤ 4096) :
    ∃ t, exec (.drw x y n) s = .next t ∧ Drew s t x y n := by
  refine ⟨_, exec_drw_of_no_fault (execFault_drw_eq_none h), ?_, ?_, ?_⟩
  · exact fun r c => get_drawSprite _ _ _ (length_loadBytes_le s n) s.screen r c
  · rw [State.reg_setReg_self, collisionFlag, State.drawn, hit_drawSprite _ _ _ (length_loadBytes_le s n), toNat_flagOf]
    rfl
  · exact (keptBut_setScreen s _).thenRegs (by decide) (regsBut_setReg _ vf _)

namespace Drew

theorem pixel_ne_iff (h : Drew s t x y n) (r : Fin 32) (c : Fin 64) :
    t.pixel r c ≠ s.pixel r c ↔ (r, c) ∈ hits s x y n := by
  rw [h.pixel]
  cases s.pixel r c <;> simp

theorem flag_eq_one_iff (h : Drew s t x y n) :
    (t.reg vf).toNat = 1 ↔ ∃ p ∈ hits s x y n, s.pixel p.1 p.2 = true := by
  rw [h.flag]
  split <;> simp [*]

theorem flag_zero_or_one (h : Drew s t x y n) : (t.reg vf).toNat = 0 ∨ (t.reg vf).toNat = 1 := by
  rw [h.flag]
  split <;> simp

/-- A DRW whose origin is not in VF leaves its own hits: it writes neither the origin, nor I, nor memory. -/
theorem hits_eq (h : Drew s t x y n) (hx : x ≠ vf) (hy : y ≠ vf) : hits t x y n = hits s x y n := by
  have hi : t.i = s.i := h.kept.kept (p := .i) (by decide) (by decide)
  have hmem : Kept s t .mem := h.kept.kept (by decide) (by decide)
  rw [hits, hits, h.kept.1 x hx, h.kept.1 y hy, hi, hmem.loadBytes_eq]

end Drew

/-- Settles O30: `Drew` where the rows are in memory, and the fault entry where they are not. -/
theorem drwXorsTheSprite : Obligations.DrwXorsTheSprite := by
  intro x y n s
  refine ⟨decodeWord_encode (j := .drw x y n) rfl, ?_⟩
  split
  · next hin =>
    obtain ⟨t, hexec, hdrew⟩ := exec_drw_of_inRange x y hin
    exact ⟨t, hexec, fun r c => (hdrew.pixel_ne_iff r c).trans mem_hits, hdrew.flag_eq_one_iff.trans exists_hits_iff,
      hdrew.flag_zero_or_one, hdrew.kept⟩
  · next hout =>
    exact ⟨_, exec_of_fault (execFault_drw_eq_dataBounds hout), faultEntered_raiseExec s .dataBounds (.drw x y n) _⟩

/-! ## The second of two identical DRWs (R139) -/

namespace Drew

variable {u : State}

theorem pixel_twice (h : Drew s t x y n) (h' : Drew t u x y n) (hx : x ≠ vf) (hy : y ≠ vf) (r : Fin 32) (c : Fin 64) :
    u.pixel r c = s.pixel r c := by
  rw [h'.pixel, h.hits_eq hx hy, h.pixel, Bool.xor_assoc, Bool.xor_self, Bool.xor_false]

/-- The first DRW flips every hit pixel, so the second collides where the first fell on a pixel that was off. -/
theorem flag_twice_eq_one_iff (h : Drew s t x y n) (h' : Drew t u x y n) (hx : x ≠ vf) (hy : y ≠ vf) :
    (u.reg vf).toNat = 1 ↔ ∃ p ∈ hits s x y n, s.pixel p.1 p.2 = false := by
  rw [h'.flag_eq_one_iff, h.hits_eq hx hy]
  refine exists_congr fun p => and_congr_right fun hp => ?_
  rw [h.pixel, decide_eq_true hp, Bool.xor_true, Bool.not_eq_true']

/-- Without a first collision every hit fell on a pixel that was off. -/
theorem exists_off_iff (h : Drew s t x y n) (h0 : (t.reg vf).toNat = 0) :
    (∃ p ∈ hits s x y n, s.pixel p.1 p.2 = false) ↔ ∃ p, p ∈ hits s x y n := by
  have hnone : ¬ ∃ p ∈ hits s x y n, s.pixel p.1 p.2 = true := fun hlit => by
    have h1 := h.flag_eq_one_iff.mpr hlit
    omega
  exact exists_congr fun p => and_iff_left_of_imp fun hp => Bool.eq_false_iff.mpr fun hlit => hnone ⟨p, hp, hlit⟩

end Drew

/-- Settles O31: two DRWs with the same hits flip each hit pixel twice. -/
theorem drawingTwiceRestoresTheScreen : Obligations.DrawingTwiceRestoresTheScreen := by
  intro x y n s hx hy hin
  obtain ⟨t, hexec, hdrew⟩ := exec_drw_of_inRange x y hin
  have hi : t.i = s.i := hdrew.kept.kept (p := .i) (by decide) (by decide)
  obtain ⟨u, hexec', hdrew'⟩ := exec_drw_of_inRange x y (hi ▸ hin)
  have hflag := hdrew.flag_twice_eq_one_iff hdrew' hx hy
  exact ⟨t, u, hexec, hexec', hdrew.pixel_twice hdrew' hx hy, hflag.trans exists_hits_iff,
    fun h0 => hflag.trans ((hdrew.exists_off_iff h0).trans exists_mem_hits_iff)⟩

/-- Refutes O32: from Reset with every pixel lit, the glyph row 0xF0 at address 0 falls on no pixel that is off, so the second DRW does not collide though the sprite has a 1 bit. -/
theorem not_secondDrawCollidesIffSpriteHasABit : ¬ Obligations.SecondDrawCollidesIffSpriteHasABit := by
  intro h
  let s := State.reset.setScreen (Vector.replicate 32 (Vector.replicate 64 true))
  have hlit (r : Fin 32) (c : Fin 64) : s.pixel r c = true := by simp [s, State.pixel]
  have hbit : (s.byteAt (s.i.toNat + 0)).getLsbD 7 = true := by decide
  have hin : (1 : Nibble).toNat = 0 ∨ s.i.toNat + (1 : Nibble).toNat ≤ 4096 := by decide
  obtain ⟨t, u, hexec, hexec', -, hflag, -⟩ := drawingTwiceRestoresTheScreen 0 1 1 s (by decide) (by decide) hin
  have hcollides : (u.reg vf).toNat = 1 :=
    (h 0 1 1 s t u (by decide) (by decide) hin hexec hexec').mpr ⟨0, by decide, 7, by decide, hbit⟩
  obtain ⟨_, _, _, _, r, c, -, hoff⟩ := hflag.mp hcollides
  simp [hlit] at hoff

end Sys2Proof.Proofs
end

section
/-! Keyboard (spec 45_keyboard.md): the skips on a key's level, and the key wait from the Fx0A that enters it to the event that ends it, with what each host transition does meanwhile (60_exceptions.md R200 to R202). -/

namespace Sys2Proof.Proofs

open Sys2Proof Sys2Proof.Machine Sys2Proof.Claims

variable {j : Instr} {x : Reg} {s : State}

/-! ## The key skips (R150, R151) -/

/-- An instruction whose meaning is a skip on a key's level: a conditional skip for a key 0 to 15, the fault entry for any other value. -/
theorem exec_of_skipOnKey {want : Bool} (hexec : exec j s = .next (s.skipOnKey j x want)) :
    ∃ t, exec j s = .next t ∧
      if (s.reg x).toNat ≤ 15 then
        t.pc.toNat = (s.pc.toNat + if s.key ((s.reg x).setWidth 4) = want then 2 else 0) % 65536 ∧ KeptBut [.pc] s t
      else FaultEntered s t .keyRange (s.pc - 2) (encode j) (s.reg x).toNat := by
  obtain ⟨hle, hskip⟩ | ⟨hlt, hraise⟩ := s.skipOnKey_cases j x want
  · simp only [if_pos hle]
    exact exec_of_skipIf (hskip ▸ hexec) beq_iff_eq
  · simp only [if_neg (Nat.not_le.mpr hlt)]
    exact ⟨_, hraise ▸ hexec, faultEntered_raiseExec s .keyRange j _⟩

/-- Settles O33: SKP skips on the level 1, SKNP on the level 0. -/
theorem keySkipsTestTheLevel : Obligations.KeySkipsTestTheLevel := fun x _ =>
  ⟨decodeWord_encode (j := .skp x) rfl, decodeWord_encode (j := .sknp x) rfl,
    exec_of_skipOnKey (j := .skp x) rfl, exec_of_skipOnKey (j := .sknp x) rfl⟩

/-! ## Entering the wait (R152) -/

theorem coreStep_of_waitKey (hwait : s.status = .waitKey) : coreStep s = .next s := by
  simp only [coreStep, hwait]

/-- Settles O34: Fx0A is one `enterWait`, and a waiting core's turn is used up without a fetch. -/
theorem keyWaitSuspendsTheCore : Obligations.KeyWaitSuspendsTheCore := fun x s =>
  ⟨decodeWord_encode (j := .ldVxK x) rfl, _, rfl, rfl, rfl, keptBut_enterWait s x, fun u hwait hcore =>
    (step_coreNext hcore).trans (coreStep_of_waitKey (s := u.setSchedule u.schedule.tail) hwait)⟩

/-! ## The key-down event (R153, R202) -/

theorem keyMapped_of_ne_waitKey (k : Option Key) (h : s.status ≠ .waitKey) : keyMapped k s = s := if_neg h

theorem keyMapped_none (s : State) : keyMapped none s = s := ite_self s

theorem keyMapped_some (k : Key) (hwait : s.status = .waitKey) : keyMapped (some k) s = s.completeWait k := if_pos hwait

/-- Completing the wait writes the latched register and the status. -/
theorem regsBut_completeWait (s : State) (k : Key) : RegsBut (· = s.waitReg) [.status] s (s.completeWait k) := by
  refine ⟨fun r hr => by rw [State.reg_completeWait, if_neg hr], fun p hp => ?_⟩
  have h := Kept.refl s p
  cases p
  case regs | status => simp at hp
  all_goals exact h

theorem toNat_reg_completeWait (s : State) (k : Key) : ((s.completeWait k).reg s.waitReg).toNat = k.toNat := by
  rw [State.reg_completeWait, if_pos rfl]
  exact BitVec.toNat_setWidth_of_le (by decide)

/-- Settles O35: the event is `keyMapped` of what KEYMAP answers: no effect outside the wait or on an unmapped symbol, else `completeWait`. -/
theorem keyDownCompletesTheWait : Obligations.KeyDownCompletesTheWait := by
  intro sym s
  have hdown : hostEvent (.keyDown sym) s = keyMapped (Config.keymap sym) s := rfl
  refine ⟨rfl, keyMapped_of_ne_waitKey _, fun hwait => ?_⟩
  rw [hdown]
  cases Config.keymap sym with
  | none => exact keyMapped_none s
  | some k =>
    rw [keyMapped_some k hwait]
    exact ⟨toNat_reg_completeWait s k, rfl, regsBut_completeWait s k⟩

/-! ## Tick, KeySet and Load by the status (R200, R201, R224) -/

theorem tick_of_ne_fault (h : s.status ≠ .fault) : tick s = (s.setDt (countDown s.dt)).setSt (countDown s.st) := if_neg h

theorem keySet_of_ne_fault (k : Key) (down : Bool) (h : s.status ≠ .fault) : keySet k down s = s.setKey k down := if_neg h

theorem load_of_ne_run (buf : List Byte) (h : s.status ≠ .run) : load buf s = s := if_neg h

/-- A timer at 0 stays there, as subtraction on the naturals does. -/
theorem toNat_countDown (b : Byte) : (countDown b).toNat = b.toNat - 1 := by
  unfold countDown
  split
  · next h0 => rw [h0]; rfl
  · next hpos => bv_omega

theorem keptBut_tick (h : s.status ≠ .fault) : KeptBut [.dt, .st] s (tick s) := by
  rw [tick_of_ne_fault h]
  exact ((keptBut_setDt s _).mono (by simp)).trans ((keptBut_setSt _ _).mono (by simp))

theorem keptBut_setKey (s : State) (k : Key) (b : Bool) : KeptBut [.keys] s (s.setKey k b) := by
  intro p hp
  have h := Kept.refl s p
  cases p
  case keys => simp at hp
  all_goals exact h

theorem keptBut_keySet (k : Key) (down : Bool) (h : s.status ≠ .fault) : KeptBut [.keys] s (keySet k down s) := by
  rw [keySet_of_ne_fault k down h]
  exact keptBut_setKey s k down

theorem keptBut_of_eq {ps : List Part} {t : State} (h : t = s) : KeptBut ps s t := by
  subst h
  exact KeptBut.refl ps t

/-! ## The wait goes on (R155) -/

/-- An event that leaves the wait pending writes at most the timers and the keys. -/
theorem keptBut_of_leavesWait {e : HostEvent} (hwait : s.status = .waitKey) (he : leavesWait e) :
    KeptBut [.dt, .st, .keys] s (hostEvent e s) := by
  have hfault : s.status ≠ .fault := by simp [hwait]
  have hrun : s.status ≠ .run := by simp [hwait]
  cases e with
  | tick => exact (keptBut_tick hfault).mono (by simp)
  | keySet k down => exact (keptBut_keySet k down hfault).mono (by simp)
  | keyDown sym => exact keptBut_of_eq ((congrArg (keyMapped · s) he).trans (keyMapped_none s))
  | keyMapped k => exact keptBut_of_eq ((congrArg (keyMapped · s) he).trans (keyMapped_none s))
  | reset => exact he.elim
  | load buf => exact keptBut_of_eq (load_of_ne_run buf hrun)

/-- Settles O36: the events that leave the wait are framed once; Load has no effect, Tick and KeySet are their updates, and Reset enters RUN. -/
theorem onlyAMappedKeyOrResetEndsTheWait : Obligations.OnlyAMappedKeyOrResetEndsTheWait := by
  intro s hwait
  have hfault : s.status ≠ .fault := by simp [hwait]
  refine ⟨fun e he => ?_, fun buf => load_of_ne_run buf (by simp [hwait]), ?_, fun k down => ?_, rfl⟩
  · have hkept := keptBut_of_leavesWait hwait he
    have hstatus : (hostEvent e s).status = s.status := hkept .status (by simp)
    exact ⟨hstatus.trans hwait, hkept .waitReg (by simp), hkept .pc (by simp)⟩
  · calc (hostEvent .tick s).dt.toNat
        = (countDown s.dt).toNat := congrArg (·.dt.toNat) (tick_of_ne_fault hfault)
      _ = s.dt.toNat - 1 := toNat_countDown s.dt
  · calc (hostEvent (.keySet k down) s).key k
        = (s.setKey k down).key k := congrArg (·.key k) (keySet_of_ne_fault k down hfault)
      _ = down := by rw [State.key_setKey, if_pos rfl]

end Sys2Proof.Proofs
end

section
/-! Timers, index and memory (spec 46_timers_memory.md): the timer moves, the two writes of I, and the data accesses at I, each behind the data check of R49. -/

namespace Sys2Proof.Proofs

open Sys2Proof Sys2Proof.Machine Sys2Proof.Claims

variable {j : Instr} {s : State}

/-! ## The timer moves and the writes of I (R165 to R169) -/

/-- Settles O38: each is one write, of Vx, of DT or of ST. -/
theorem timerMoves : Obligations.TimerMoves := fun x s =>
  ⟨decodeWord_encode (j := .ldVxDt x) rfl, decodeWord_encode (j := .ldDtVx x) rfl,
    decodeWord_encode (j := .ldStVx x) rfl, exec_of_setReg rfl,
    ⟨_, rfl, State.setDt_dt s _, keptBut_setDt s _⟩, ⟨_, rfl, State.setSt_st s _, keptBut_setSt s _⟩⟩

theorem toNat_add_zextByte (w : Word) (b : Byte) : (w + zextByte b).toNat = (w.toNat + b.toNat) % 65536 := by
  rw [BitVec.toNat_add, toNat_zextByte]

/-- Settles O41: each is one write of I, of the wrapping sum or of the glyph's address. -/
theorem indexAddAndGlyphAddress : Obligations.IndexAddAndGlyphAddress := fun x s =>
  ⟨decodeWord_encode (j := .addIVx x) rfl, decodeWord_encode (j := .ldFVx x) rfl,
    ⟨_, rfl, toNat_add_zextByte s.i (s.reg x), keptBut_setI s _⟩,
    ⟨_, rfl, toNat_glyphAddr (s.reg x), keptBut_setI s _⟩⟩

/-! ## The data accesses (R49, R170 to R172) -/

/-- An instruction whose meaning is an access to the addresses I to I + n behind the data check: the access where they are in memory, the fault entry where they are not. -/
theorem exec_of_withData {n : Nat} {k : State → State} {P : State → Prop}
    (hexec : exec j s = .next (s.withData j (n + 1) k)) (hk : s.i.toNat + n < 4096 → P (k s)) :
    ∃ t, exec j s = .next t ∧
      if s.i.toNat + n < 4096 then P t
      else FaultEntered s t .dataBounds (s.pc - 2) (encode j) (max s.i.toNat 4096) := by
  refine ⟨_, hexec, ?_⟩
  obtain ⟨hin, haccess⟩ | ⟨hout, hraise⟩ := s.withData_cases j (n + 1) k
  · have hmem := (State.inRange_succ _ _).mp hin
    rw [haccess, if_pos hmem]
    exact hk hmem
  · have hmem := (State.inRange_succ s.i.toNat n).not.mp (by simp [hout])
    rw [hraise, if_neg hmem]
    exact faultEntered_raiseExec s .dataBounds j _

section
variable {a : Nat} {bs : List Byte} (hbs : a + bs.length ≤ 4096)
include hbs

theorem byteAt_storeBytes_within {k : Nat} (hk : k < bs.length) : (s.storeBytes a bs).byteAt (a + k) = bs.getD k 0 := by
  rw [State.byteAt_storeBytes s a bs hbs, if_pos (by omega), Nat.add_sub_cancel_left]

theorem byteAt_storeBytes_outside {c : Nat} (hc : c < a ∨ a + bs.length ≤ c) : (s.storeBytes a bs).byteAt c = s.byteAt c := by
  rw [State.byteAt_storeBytes s a bs hbs, if_neg (by omega)]

end

/-- No digit is cut off when it is stored as a byte. -/
theorem toNat_bcdDigits (b : Byte) :
    ((bcdDigits b).getD 0 0).toNat = b.toNat / 100 ∧ ((bcdDigits b).getD 1 0).toNat = b.toNat / 10 % 10 ∧
      ((bcdDigits b).getD 2 0).toNat = b.toNat % 10 := by
  have hfits : ∀ d < 256, (BitVec.ofNat 8 d).toNat = d := fun d hd => by
    rw [BitVec.toNat_ofNat]
    exact Nat.mod_eq_of_lt hd
  exact ⟨hfits _ (by omega), hfits _ (by omega), hfits _ (by omega)⟩

/-- Settles O42: the access is a store of the three digits. -/
theorem bcdStoresThreeDigits : Obligations.BcdStoresThreeDigits := by
  intro x s
  refine ⟨decodeWord_encode (j := .ldBVx x) rfl, exec_of_withData (n := 2) rfl fun hmem => ?_⟩
  have hroom : s.ea 0 + (bcdDigits (s.reg x)).length ≤ 4096 := hmem
  have hdigit : ∀ k < 3, ((s.storeBytes (s.ea 0) (bcdDigits (s.reg x))).byteAt (s.i.toNat + k)).toNat =
      ((bcdDigits (s.reg x)).getD k 0).toNat :=
    fun k hk => congrArg BitVec.toNat (byteAt_storeBytes_within hroom hk)
  obtain ⟨hhundreds, htens, hunits⟩ := toNat_bcdDigits (s.reg x)
  exact ⟨(hdigit 0 (by decide)).trans hhundreds, (hdigit 1 (by decide)).trans htens,
    (hdigit 2 (by decide)).trans hunits, fun a ha => byteAt_storeBytes_outside hroom ha, keptBut_storeBytes s _ _⟩

/-- Settles O43: the access is a store of the registers V0 to Vx. -/
theorem storeRegistersFromI : Obligations.StoreRegistersFromI := by
  intro x s
  refine ⟨decodeWord_encode (j := .ldMemVx x) rfl, exec_of_withData rfl fun hmem => ?_⟩
  have hend : s.ea 0 + (s.regsUpTo x).length = s.i.toNat + x.toNat + 1 := by rw [State.length_regsUpTo]; rfl
  refine ⟨fun r hr => byteAt_storeBytes_regsUpTo hmem hr, fun a ha => ?_, keptBut_storeBytes s _ _⟩
  exact byteAt_storeBytes_outside (hend.trans_le hmem) (ha.imp_right hend.trans_le)

/-- Settles O44: the access is `loadRegs`. -/
theorem loadRegistersFromI : Obligations.LoadRegistersFromI := fun x s =>
  ⟨decodeWord_encode (j := .ldVxMem x) rfl, exec_of_withData rfl fun _ =>
    ⟨fun r hr => by rw [State.reg_loadRegs, if_pos hr], regsBut_loadRegs s x⟩⟩

/-- Settles O45: a register in range is loaded from the address it was stored at, and the memory there does not depend on the registers held in between. -/
theorem storeThenLoadRoundTrips : Obligations.StoreThenLoadRoundTrips := by
  intro x s between hx
  have hin : ¬ 4096 ≤ s.i.toNat + x.toNat := Nat.not_le.mpr hx
  refine ⟨_, _, exec_ldMemVx_of_no_fault (if_neg hin), exec_ldVxMem_of_no_fault (if_neg hin), fun r hr => ?_, rfl⟩
  rw [State.reg_loadRegs, if_pos hr]
  exact byteAt_storeBytes_regsUpTo hx hr

end Sys2Proof.Proofs
end

section
/-! The exceptions (spec 60_exceptions.md R190 to R192): which transition raises which fault and what the fault entry writes, and FAULT as a state that only Reset leaves. -/

namespace Sys2Proof.Proofs

open Sys2Proof Sys2Proof.Machine Sys2Proof.Claims

variable {s : State} {buf : List Byte}

/-! ## The faults (R190, R191) -/

theorem load_of_oversize (hrun : s.status = .run) (hsize : 3584 < buf.length) : load buf s = s.raiseLoad buf.length :=
  (if_pos hrun).trans (if_neg (Nat.not_le.mpr hsize))

theorem faultEntered_load_of_oversize (hrun : s.status = .run) (hsize : 3584 < buf.length) :
    FaultEntered s (load buf s) .loadSize 0 0 buf.length := by
  rw [load_of_oversize hrun hsize]
  exact faultEntered_raise s .loadSize 0 0 (BitVec.toNat_ofNat buf.length 16)

/-- Settles O14: an instruction enters FAULT by its row of the fault table, and without one its status stays or becomes WAIT_KEY; the fetch and Load raise their own. -/
theorem faultTableAndEntry : Obligations.FaultTableAndEntry := by
  refine ⟨fun j s => ?_, fun s hrun hpc => ?_, fun s buf => faultEntered_load_of_oversize, rfl⟩
  · cases hf : execFault j s with
    | some f => exact ⟨_, exec_of_fault hf, faultEntered_raiseExec s f.1 j f.2⟩
    | none =>
      obtain ⟨t, hexec⟩ := exec_next j s
      obtain ⟨hstatus, -⟩ := exec_status_of_no_fault hf hexec
      refine ⟨t, hexec, fun hs => ?_⟩
      obtain hkept | hwait := hstatus
      · exact hkept ▸ hs
      · simp [hwait]
  · have hfetch : ¬ s.canFetch = true := (canFetch_iff s).not.mpr (Nat.not_le.mpr hpc)
    exact ⟨_, coreStep_of_not_canFetch hrun hfetch, faultEntered_raiseFetch s⟩

/-! ## FAULT is terminal (R192) -/

theorem coreStep_of_fault (hfault : s.status = .fault) : coreStep s = .fault (.halted s.fcause) := by
  simp only [coreStep, hfault]

/-- No host transition but Reset is enabled in FAULT. -/
theorem hostEvent_of_fault {e : HostEvent} (hfault : s.status = .fault) (he : e ≠ .reset) : hostEvent e s = s := by
  cases e with
  | tick | keySet => exact if_pos hfault
  | keyDown | keyMapped => exact keyMapped_of_ne_waitKey _ (by simp [hfault])
  | reset => exact absurd rfl he
  | load buf => exact load_of_ne_run buf (by simp [hfault])

/-- Settles O15: in FAULT the core's Step stops, Reset is the one host transition enabled, and it enters RUN. -/
theorem faultStateIsTerminal : Obligations.FaultStateIsTerminal := by
  intro s hfault
  refine ⟨fun t => ?_, fun e he => hostEvent_of_fault hfault he, rfl⟩
  simp [coreStep_of_fault hfault]

end Sys2Proof.Proofs
end

section
/-! The host's Ticks and KeySets outside FAULT (spec 60_exceptions.md R200, R201): one Tick and many, and what can change a key. -/

namespace Sys2Proof.Proofs

open Sys2Proof Sys2Proof.Machine Sys2Proof.Claims

variable {s t : State}

/-! ## Ticks (R200) -/

theorem toNat_dt_tick (h : s.status ≠ .fault) : (tick s).dt.toNat = s.dt.toNat - 1 := by
  rw [tick_of_ne_fault h]
  exact toNat_countDown s.dt

theorem toNat_st_tick (h : s.status ≠ .fault) : (tick s).st.toNat = s.st.toNat - 1 := by
  rw [tick_of_ne_fault h]
  exact toNat_countDown s.st

/-- Settles O39: subtraction on the naturals stops at 0, as the timers do. -/
theorem tickDecrementsBothTimers : Obligations.TickDecrementsBothTimers := by
  intro s h
  have hstop (n : Nat) : n - 1 = if n > 0 then n - 1 else 0 := by split <;> omega
  exact ⟨(toNat_dt_tick h).trans (hstop _), (toNat_st_tick h).trans (hstop _), keptBut_tick h⟩

/-- Settles O40, by induction on the number of Ticks: the Ticks before keep the status, so the last is enabled too. -/
theorem ticksCountDownToZero : Obligations.TicksCountDownToZero := by
  intro n s h
  induction n with
  | zero => exact ⟨rfl, rfl, KeptBut.refl _ s⟩
  | succ n ih =>
    obtain ⟨hdt, hst, hkept⟩ := ih
    have hstatus : ((hostEvent .tick)^[n] s).status = s.status := hkept .status (by decide)
    have hn : ((hostEvent .tick)^[n] s).status ≠ .fault := hstatus ▸ h
    rw [Function.iterate_succ_apply', ← Nat.sub_sub, ← Nat.sub_sub, ← hdt, ← hst]
    exact ⟨toNat_dt_tick hn, toNat_st_tick hn, hkept.trans (keptBut_tick hn)⟩

/-! ## The keys (R201) -/

theorem key_keySet (k j : Key) (down : Bool) (h : s.status ≠ .fault) :
    (keySet k down s).key j = if j = k then down else s.key j := by
  rw [keySet_of_ne_fault k down h]
  exact s.key_setKey k j down

theorem keys_not_mem_writesParts (j : Instr) : .keys ∉ writesParts j := by
  cases j <;> simp [writesParts]

/-- A key-down event completes a wait or does nothing, and the keys are no part of a completed wait. -/
theorem kept_keys_keyMapped (k : Option Key) (s : State) : Kept s (keyMapped k s) .keys := by
  obtain hsame | ⟨-, key, hdone⟩ := keyMapped_cases k s
  · rw [hsame]
    exact Kept.refl s .keys
  · rw [hdone]
    exact (regsBut_completeWait s key).kept (by decide) (by decide)

/-- Settles O37: KeySet is one `setKey`, and the keys are in no instruction's "written by" column. -/
theorem keySetWritesOneKey : Obligations.KeySetWritesOneKey := by
  intro k down s h
  refine ⟨fun j => key_keySet k j down h, keptBut_keySet k down h, fun j => ?_, fun sym => kept_keys_keyMapped _ s⟩
  obtain ⟨t, hexec⟩ := exec_next j s
  exact ⟨t, hexec, exec_kept hexec (keys_not_mem_writesParts j) (by decide) (by decide)⟩

end Sys2Proof.Proofs
end

section
/-! Reset, Load and boot (spec 70_reset_and_hazards.md R220, R224 to R226): the two host transitions that bring a program into the machine, and the first word executed after them. -/

namespace Sys2Proof.Proofs

open Sys2Proof Sys2Proof.Machine Sys2Proof.Claims

/-! ## Reset (R220) -/

/-- Settles O48: Reset is the reset state but for the model's own two fields. -/
theorem resetRestoresEverything : Obligations.ResetRestoresEverything := by
  intro s p hp
  have h := Kept.refl (State.resetWith s.font) p
  cases p
  case draws | schedule => simp at hp
  all_goals exact h

/-! ## Load of a program that fits (R224) -/

section
variable {s : State} {buf : List Byte} (hrun : s.status = .run) (hfits : buf.length ≤ 3584)
include hrun hfits

theorem load_of_fits : load buf s = (s.storeBytes 0x200 buf).setPc 0x200 :=
  (if_pos hrun).trans (if_pos hfits)

theorem pc_load : (load buf s).pc = 0x200 :=
  congrArg State.pc (load_of_fits hrun hfits)

theorem keptBut_load : KeptBut [.pc, .mem] s (load buf s) := by
  rw [load_of_fits hrun hfits]
  exact ((keptBut_storeBytes s _ _).mono (by simp)).trans ((keptBut_setPc _ _).mono (by simp))

theorem byteAt_load_within {k : Nat} (hk : k < buf.length) : (load buf s).byteAt (0x200 + k) = buf.getD k 0 := by
  rw [load_of_fits hrun hfits]
  exact byteAt_storeBytes_within (s := s) (by omega) hk

theorem byteAt_load_outside {a : Nat} (ha : a < 0x200 ∨ 0x200 + buf.length ≤ a) :
    (load buf s).byteAt a = s.byteAt a := by
  rw [load_of_fits hrun hfits]
  exact byteAt_storeBytes_outside (s := s) (by omega) ha

/-- The program's first word is the one at PC. -/
theorem toNat_opcodeAt_load (hword : 2 ≤ buf.length) :
    (load buf s).opcodeAt.toNat = (buf.getD 0 0).toNat * 256 + (buf.getD 1 0).toNat := by
  have hpc : (load buf s).pc.toNat = 0x200 := congrArg BitVec.toNat (pc_load hrun hfits)
  have hhigh : (load buf s).byteAt 0x200 = buf.getD 0 0 := byteAt_load_within hrun hfits (k := 0) (by omega)
  have hlow : (load buf s).byteAt (0x200 + 1) = buf.getD 1 0 := byteAt_load_within hrun hfits hword
  rw [toNat_opcodeAt, hpc, hhigh, hlow]

end

/-- Settles O49: outside RUN Load is not enabled; in RUN it is a store and a write of PC, or LoadSize. -/
theorem loadCopiesTheProgram : Obligations.LoadCopiesTheProgram := by
  refine fun buf s => ⟨load_of_ne_run buf, fun hrun => ?_⟩
  split
  · next hfits =>
    exact ⟨pc_load hrun hfits, fun k => byteAt_load_within hrun hfits, fun a => byteAt_load_outside hrun hfits,
      keptBut_load hrun hfits, toNat_opcodeAt_load hrun hfits⟩
  · next hsize => exact faultEntered_load_of_oversize hrun (Nat.not_le.mp hsize)

/-! ## Boot (R226) -/

/-- The core's turn right after a Load executes the program's first word. -/
theorem step_after_load {s : State} {buf : List Byte} (hrun : s.status = .run) (hfits : buf.length ≤ 3584)
    (hword : 2 ≤ buf.length) (hcore : (load buf s).coreNext = true) :
    ∃ op : Word, op.toNat = (buf.getD 0 0).toNat * 256 + (buf.getD 1 0).toNat ∧
      step (load buf s) =
        exec (decodeWord op) { load buf s with pc := 0x202, schedule := (load buf s).schedule.tail } := by
  have hpc : (load buf s).pc = 0x200 := pc_load hrun hfits
  have hstatus : (load buf s).status = s.status := keptBut_load hrun hfits .status (by decide)
  have hstep := stepFetchesThenExecutes _ hcore (hstatus.trans hrun)
  rw [hpc, if_pos (by decide)] at hstep
  obtain ⟨op, hop, hexec⟩ := hstep
  refine ⟨op, ?_, hexec⟩
  rw [hop, ← toNat_opcodeAt_load hrun hfits hword, toNat_opcodeAt, hpc]

theorem keptBut_setSchedule (s : State) (rest : List Turn) : KeptBut [.schedule] s (s.setSchedule rest) := by
  intro p hp
  have h := Kept.refl s p
  cases p
  case schedule => simp at hp
  all_goals exact h

/-- A Reset turn leaves the reset values, and the schedule after it. -/
theorem step_of_resetTurn {s : State} {rest : List Turn} (hsched : s.schedule = .host .reset :: rest) :
    ∃ t, step s = .next t ∧ t.schedule = rest ∧ KeptBut [.draws, .schedule] (State.resetWith s.font) t :=
  ⟨_, step_of_hostTurn hsched, rfl, resetRestoresEverything (s.setSchedule rest)⟩

/-- Settles O50: the Reset leaves its reset values, the Load changes PC and memory alone, and `step_after_load` is the core's turn. -/
theorem bootRunsTheProgram : Obligations.BootRunsTheProgram := by
  intro s buf rest hword hfits hsched
  obtain ⟨t, hreset, htsched, htkept⟩ := step_of_resetTurn hsched
  have hrun : (t.setSchedule rest).status = .run := htkept .status (by decide)
  have hukept := keptBut_load hrun hfits
  have husched : (load buf (t.setSchedule rest)).schedule = rest := hukept .schedule (by decide)
  refine ⟨t, load buf (t.setSchedule rest), hreset, step_of_hostTurn htsched, husched, ?_, fun hcore => ?_⟩
  · exact (htkept.mono (by simp)).trans (((keptBut_setSchedule t rest).mono (by simp)).trans (hukept.mono (by simp)))
  · obtain ⟨op, hop, hstep⟩ := step_after_load hrun hfits hword hcore
    rw [husched] at hstep
    exact ⟨op, hop, hstep⟩

end Sys2Proof.Proofs
end

section
/-! The end of a run (spec 70_reset_and_hazards.md R227): an ended state in the bytes of memory, the core's Step at it (40_control_flow.md R81), and what the host's transitions leave of it. -/

namespace Sys2Proof.Proofs

open Sys2Proof Sys2Proof.Machine Sys2Proof.Claims

variable {s t : State}

/-! ## What an ended state is -/

/-- An address of memory fits a jump's address field. -/
theorem zextAddr_setWidth {p : Word} (hp : p.toNat ≤ 4094) : zextAddr (p.setWidth 12) = p := by
  apply BitVec.eq_of_toNat_eq
  rw [toNat_zextAddr, BitVec.toNat_setWidth]
  exact Nat.mod_eq_of_lt (by omega)

/-- The word of a jump to an address of memory, as a number (R81). -/
theorem toNat_encode_jp {p : Word} (hp : p.toNat ≤ 4094) :
    (encode (.jp (p.setWidth 12))).toNat = 0x1000 + p.toNat := by
  have hlow : p.toNat % 2 ^ 12 = p.toNat := Nat.mod_eq_of_lt (by omega)
  rw [encode, BitVec.toNat_append, ← Nat.shiftLeft_add_eq_or_of_lt (BitVec.isLt _), BitVec.toNat_setWidth, hlow]
  rfl

/-- An ended state in the bytes of memory. -/
theorem ended_iff_bytes (s : State) :
    s.ended = true ↔ s.status = .run ∧ s.pc.toNat ≤ 4094 ∧
      (s.byteAt s.pc.toNat).toNat * 256 + (s.byteAt (s.pc.toNat + 1)).toNat = 0x1000 + s.pc.toNat := by
  rw [ended_iff, canFetch_iff, decodeWord_eq_iff rfl, ← BitVec.toNat_inj, ← toNat_opcodeAt]
  refine and_congr_right fun _ => and_congr_right fun hpc => ?_
  rw [toNat_encode_jp hpc]

/-- The fetch's advance of PC is overwritten with the PC that was there (R81). -/
theorem coreStep_of_ended (h : s.ended = true) : coreStep s = .next s := by
  obtain ⟨hrun, hfetch, hword⟩ := (ended_iff s).mp h
  have htarget : zextAddr (s.pc.setWidth 12) = s.pc := zextAddr_setWidth ((canFetch_iff s).mp hfetch)
  calc coreStep s
      = exec (.jp (s.pc.setWidth 12)) s.afterFetch := by rw [coreStep_of_canFetch hrun hfetch, hword]
    _ = .next (s.afterFetch.setPc (zextAddr (s.pc.setWidth 12))) := rfl
    _ = .next s := by rw [htarget]; rfl

/-- Settles O52: the definition of `ended` in the bytes of memory, and the jump to itself at the core's Step. -/
theorem endOfRunIsASelfJump : Obligations.EndOfRunIsASelfJump := by
  refine fun s => ⟨ended_iff_bytes s, fun h => ?_⟩
  have hrun : s.status = .run := ((ended_iff s).mp h).1
  exact ⟨by simp [State.Safe, hrun], by simp [hrun], coreStep_of_ended h⟩

/-! ## An ended run stays ended -/

/-- Only the status, PC and the bytes of memory say whether a run has ended. -/
theorem ended_of_keptBut (h : KeptBut [.dt, .st, .keys, .schedule] s t) (hs : s.ended = true) : t.ended = true := by
  have hstatus : t.status = s.status := h .status (by decide)
  have hpc : t.pc = s.pc := h .pc (by decide)
  have hmem : ∀ a, t.byteAt a = s.byteAt a := h .mem (by decide)
  rw [ended_iff_bytes] at hs ⊢
  simpa only [hstatus, hpc, hmem] using hs

/-- In RUN a host transition other than Reset and Load writes at most the timers and the keys. -/
theorem keptBut_of_run {e : HostEvent} (hrun : s.status = .run) (hreset : e ≠ .reset) (hload : ∀ buf, e ≠ .load buf) :
    KeptBut [.dt, .st, .keys] s (hostEvent e s) := by
  have hfault : s.status ≠ .fault := by simp [hrun]
  cases e with
  | tick => exact (keptBut_tick hfault).mono (by simp)
  | keySet k down => exact (keptBut_keySet k down hfault).mono (by simp)
  | keyDown | keyMapped => exact keptBut_of_eq (keyMapped_of_ne_waitKey _ (by simp [hrun]))
  | reset => exact absurd rfl hreset
  | load buf => exact absurd rfl (hload buf)

/-- The schedule holds no turn that starts another run. -/
def NoRestart (turns : List Turn) : Prop := ∀ e, Turn.host e ∈ turns → e ≠ .reset ∧ ∀ buf, e ≠ .load buf

/-- One step of an ended run uses a turn up and changes at most the timers and the keys. -/
theorem step_of_ended (h : s.ended = true) (hturns : NoRestart s.schedule) :
    ∃ t, step s = .next t ∧ t.schedule = s.schedule.tail ∧ KeptBut [.dt, .st, .keys, .schedule] s t := by
  have hused (rest : List Turn) : KeptBut [.dt, .st, .keys, .schedule] s (s.setSchedule rest) :=
    (keptBut_setSchedule s rest).mono (by simp)
  obtain ⟨-, hstep⟩ | ⟨e, rest, hsched, hstep⟩ := step_cases s
  · exact ⟨_, hstep.trans (coreStep_of_ended (ended_of_keptBut (hused _) h)), rfl, hused _⟩
  · obtain ⟨hreset, hload⟩ := hturns e (by simp [hsched])
    have hhost := keptBut_of_run (s := s.setSchedule rest) ((ended_iff s).mp h).1 hreset hload
    refine ⟨_, hstep, ?_, (hused rest).trans (hhost.mono (by simp))⟩
    rw [hsched]
    exact hhost .schedule (by decide)

/-- Settles O53, by induction on the number of steps: each leaves an ended state and a shorter schedule. -/
theorem endedRunStaysEnded : Obligations.EndedRunStaysEnded := by
  intro n s h hturns
  suffices hrun : ∃ t, Reaches n s t ∧ KeptBut [.dt, .st, .keys, .schedule] s t by
    obtain ⟨t, hreach, hkept⟩ := hrun
    have ht := ended_of_keptBut hkept h
    exact ⟨t, hreach, ⟨n, hreach, ht⟩, ht, hkept⟩
  induction n generalizing s with
  | zero => exact ⟨s, rfl, KeptBut.refl _ s⟩
  | succ n ih =>
    obtain ⟨u, hstep, hsched, hkept⟩ := step_of_ended h hturns
    obtain ⟨t, hreach, hkept'⟩ := ih u (ended_of_keptBut hkept h) fun e he =>
      hturns e (List.mem_of_mem_tail (hsched ▸ he))
    exact ⟨t, ⟨u, hstep, hreach⟩, hkept.trans hkept'⟩

end Sys2Proof.Proofs
end
